-- ==== Sys2Proof/Word.lean ====
section
/-! DEFINITION. The Word of the block and the numbers of its registers (00_scope.md R7, R9, R12; 10_state.md R21, R28). -/

namespace Sys2Proof

/-- A Word: 16 bits, bit 15 the most significant (R7).  Registers, memory cells, addresses and instruction words are all
Words.  `BitVec` addition on it is the wrapping `+w` of R9, and `BitVec.toInt` is its signed view. -/
abbrev Word := BitVec 16

/-- The 3-bit field by which an instruction names a general register `R0`..`R7` (R23). -/
abbrev RegNum := BitVec 3

/-- The 3-bit condition-code value, and the `nzp` mask tested against it (R28): bit 2 Negative, bit 1 Zero, bit 0
Positive. -/
abbrev Cond := BitVec 3

end Sys2Proof
end

