-- ==== Sys2Proof/Config.lean ====
section
/-! DEFINITION. The parameters of the hardware (00_scope.md R6).  The two that R6 marks OPEN, `ENTRY_ADDRESS` and
`TRAP_HOOK`, are arguments of the model as well: see `Platform` in Machine/Platform.lean, whose defaults are the values
named here.  The numbering of the opcodes (decision D1) stands in Decode.lean. -/

namespace Sys2Proof.Config

/-- `MEM_WORDS`, the number of memory cells (R6, R50). -/
def memWords : Nat := 65536

/-- `LINK_REG`, the register that the four jumps link (R6, R24). -/
def linkReg : RegNum := 7

/-- `FL_POS` (R6, R28). -/
def flPos : Cond := 0b001

/-- `FL_ZRO` (R6, R28). -/
def flZro : Cond := 0b010

/-- `FL_NEG` (R6, R28). -/
def flNeg : Cond := 0b100

/-- `COND_RESET` (R6; decision D6, 90_conflicts.md C1; notes/assumptions/6.md). -/
def condReset : Cond := 0b000

/-- The default of the OPEN parameter `ENTRY_ADDRESS` (R6; decision D7; notes/assumptions/7.md). -/
def entryAddress : Word := 0x3000

/-- What a cell that nothing has written since reset holds (R40, R41). -/
def memReset : Word := 0x0000

/-- The two readings of opcode value 12 (R6 `OPC12_MODE`; decision D2; 93_implementation_defined.md U10). -/
inductive Opc12Mode where
  /-- opcode 12 runs the source's JMP/JSR row (R163, R164) -/
  | linkJump
  /-- opcode 12 has no handler and faults as opcode 11 does (D2's alternative) -/
  | unimplemented
  deriving DecidableEq, Repr

/-- `OPC12_MODE` (R6; decision D2; notes/assumptions/2.md). -/
def opc12Mode : Opc12Mode := .linkJump

end Sys2Proof.Config
end

