-- ==== Sys2Proof/Syntax.lean ====
section
/-! DEFINITION. The twenty instruction forms of the opcode map (30_encoding.md R86; spec/opcode_table.json), one
constructor a row.  Every constructor carries ALL the bits of its word that are not fixed by its row, the ignored ones
(`ign…`, `low`) among them, so that no bit of a word is lost between decoding and encoding: the fault latch records the
whole word of OP11 (R213, R238) and a trap hook is handed the whole word of TRAP (R214).  That the ignored bits of the
other forms have no effect (R88) is a property of their meanings. -/

namespace Sys2Proof

/-- An instruction, its fields in the order of the word from bit 11 down (R82, R83). -/
inductive Instr where
  /-- `BR[n][z][p] #n`, format BR (R160) -/
  | br (nzp : Cond) (pcoffset9 : BitVec 9)
  /-- `ADD Rd, Ra, Rb`, format RRR (R140); `ign` is `ir[4:3]` -/
  | add (dr sr1 : RegNum) (ign : BitVec 2) (sr2 : RegNum)
  /-- `ADD Rd, Ra, #n`, format RRI (R141) -/
  | addImm (dr sr1 : RegNum) (imm5 : BitVec 5)
  /-- `LD Rd, #n`, format PC9 (R180) -/
  | ld (dr : RegNum) (pcoffset9 : BitVec 9)
  /-- `ST Rs, #n`, format PC9 (R200) -/
  | st (sr : RegNum) (pcoffset9 : BitVec 9)
  /-- `JSR #n`, format J11 (R161) -/
  | jsr (pcoffset11 : BitVec 11)
  /-- `JSRR Rb`, format JR (R162); `ignHi` is `ir[10:9]`, `ignLo` is `ir[5:0]` -/
  | jsrr (ignHi : BitVec 2) (baseR : RegNum) (ignLo : BitVec 6)
  /-- `AND Rd, Ra, Rb`, format RRR (R142); `ign` is `ir[4:3]` -/
  | and (dr sr1 : RegNum) (ign : BitVec 2) (sr2 : RegNum)
  /-- `AND Rd, Ra, #n`, format RRI (R143) -/
  | andImm (dr sr1 : RegNum) (imm5 : BitVec 5)
  /-- `LDR Rd, Rb, #n`, format BO6 (R182) -/
  | ldr (dr baseR : RegNum) (offset6 : BitVec 6)
  /-- `STR Rs, Rb, #n`, format BO6 (R201) -/
  | str (sr baseR : RegNum) (offset6 : BitVec 6)
  /-- `RTI`, format X (R211); `low` is `ir[11:0]` -/
  | rti (low : BitVec 12)
  /-- `NOT Rd, Ra`, format RR (R144); `ign` is `ir[5:0]` -/
  | not (dr sr : RegNum) (ign : BitVec 6)
  /-- `LDI Rd, #n`, format PC9 (R181) -/
  | ldi (dr : RegNum) (pcoffset9 : BitVec 9)
  /-- the opcode value with no handler, format X (R213); `low` is `ir[11:0]` -/
  | op11 (low : BitVec 12)
  /-- `JMP Rb`, format JR (R163); `ignHi` is `ir[10:9]`, `ignLo` is `ir[5:0]` -/
  | jmp (ignHi : BitVec 2) (baseR : RegNum) (ignLo : BitVec 6)
  /-- `JMPPC #n`, format J11 (R164) -/
  | jmppc (pcoffset11 : BitVec 11)
  /-- `RES`, format X (R212); `low` is `ir[11:0]` -/
  | res (low : BitVec 12)
  /-- `LEA Rd, #n`, format PC9 (R183) -/
  | lea (dr : RegNum) (pcoffset9 : BitVec 9)
  /-- `TRAP xVV`, format X (R210); `low` is `ir[11:0]` -/
  | trap (low : BitVec 12)
  deriving DecidableEq, Repr

end Sys2Proof
end

