-- ==== Sys2Proof/WellFormed.lean ====
section
/-! DEFINITION. Which instructions are legal (30_encoding.md R89) and which are in the form that the Instruction Encoder
and the spec's notation write (R95, R96).  The width of a field is part of its type, so that no check of a register
number or of a range is needed (R23, R84): every value of every field is valid. -/

namespace Sys2Proof

/-- `legal i`: the block has a handler or a no-op slot for `i`.  The words of opcode 11 are the only illegal ones
(R89). -/
def Instr.legal : Instr → Bool
  | .op11 _ => false
  | .br _ _ | .add _ _ _ _ | .addImm _ _ _ | .ld _ _ | .st _ _ | .jsr _ | .jsrr _ _ _ | .and _ _ _ _ | .andImm _ _ _
  | .ldr _ _ _ | .str _ _ _ | .rti _ | .not _ _ _ | .ldi _ _ | .jmp _ _ _ | .jmppc _ | .res _ | .lea _ _
  | .trap _ => true

/-- `canonical i`: some encoder function of `Enc` writes the word of `i`, or `i` is OP11 with low bits 0: every ignored
bit of `i` is 0 (R95, R96; decision D17).  Of the twelve low bits of TRAP the lower eight are its operand and the upper
four are 0: the spec gives the operand `VV` no mask, and the eight bits are the model's choice
(notes/assumptions/24.md).  An instruction that is not canonical is no less legal (R88). -/
def Instr.canonical : Instr → Bool
  | .add _ _ ign _ | .and _ _ ign _ => ign == 0
  | .not _ _ ign => ign == 0
  | .jsrr ignHi _ ignLo | .jmp ignHi _ ignLo => ignHi == 0 && ignLo == 0
  | .rti low | .res low | .op11 low => low == 0
  | .trap low => low.extractLsb' 8 4 == 0
  | .br _ _ | .addImm _ _ _ | .ld _ _ | .st _ _ | .jsr _ | .andImm _ _ _ | .ldr _ _ _ | .str _ _ _ | .ldi _ _
  | .jmppc _ | .lea _ _ => true

/-- A well-formed instruction: a legal one. -/
abbrev Instr.WellFormed (i : Instr) : Prop := i.legal = true

end Sys2Proof
end

