-- ==== Sys2Proof/Decode.lean ====
section
/-! DEFINITION. The decoder (30_encoding.md R80 to R92), the encoder, and the spec's Instruction Encoder functions
(R95, R96).  Decoding is total on words; on a list of words it refuses the empty list by name. -/

namespace Sys2Proof

/-! ### The numbering of the opcodes: one table (R86; decision D1; notes/assumptions/1.md) -/

namespace Op

abbrev br   : BitVec 4 := 0
abbrev add  : BitVec 4 := 1
abbrev ld   : BitVec 4 := 2
abbrev st   : BitVec 4 := 3
abbrev jsr  : BitVec 4 := 4
abbrev and  : BitVec 4 := 5
abbrev ldr  : BitVec 4 := 6
abbrev str  : BitVec 4 := 7
abbrev rti  : BitVec 4 := 8
abbrev not  : BitVec 4 := 9
abbrev ldi  : BitVec 4 := 10
abbrev op11 : BitVec 4 := 11
abbrev jmp  : BitVec 4 := 12
abbrev res  : BitVec 4 := 13
abbrev lea  : BitVec 4 := 14
abbrev trap : BitVec 4 := 15

end Op

/-! ### The fields of an instruction word (R83) -/

namespace Field

/-- `ir[15:12]` (R81) -/
def opcode (ir : Word) : BitVec 4 := ir.extractLsb' 12 4
/-- `ir[11:9]`: `dr`, or `sr` of ST and STR -/
def reg11 (ir : Word) : RegNum := ir.extractLsb' 9 3
/-- `ir[11:9]`: `nzp` of BR -/
def nzp (ir : Word) : Cond := ir.extractLsb' 9 3
/-- `ir[11]`: `mode` of opcodes 4 and 12 -/
def mode11 (ir : Word) : Bool := ir.getLsbD 11
/-- `ir[10:0]` -/
def pcoffset11 (ir : Word) : BitVec 11 := ir.extractLsb' 0 11
/-- `ir[10:9]`, ignored by the register form of the jumps (R88) -/
def ign10 (ir : Word) : BitVec 2 := ir.extractLsb' 9 2
/-- `ir[8:6]`: `sr1`, `sr` of NOT, or `baseR` -/
def reg8 (ir : Word) : RegNum := ir.extractLsb' 6 3
/-- `ir[8:0]` -/
def pcoffset9 (ir : Word) : BitVec 9 := ir.extractLsb' 0 9
/-- `ir[5]`: `mode` of ADD and AND -/
def mode5 (ir : Word) : Bool := ir.getLsbD 5
/-- `ir[5:0]`: `offset6`, or the bits that NOT and the register jumps ignore (R88) -/
def low6 (ir : Word) : BitVec 6 := ir.extractLsb' 0 6
/-- `ir[4:0]` -/
def imm5 (ir : Word) : BitVec 5 := ir.extractLsb' 0 5
/-- `ir[4:3]`, ignored by the register form of ADD and AND (R88) -/
def ign4 (ir : Word) : BitVec 2 := ir.extractLsb' 3 2
/-- `ir[2:0]` -/
def sr2 (ir : Word) : RegNum := ir.extractLsb' 0 3
/-- `ir[11:0]`, ignored by RTI, RES and OP11 and handed to the hook by TRAP (R88, R214) -/
def low12 (ir : Word) : BitVec 12 := ir.extractLsb' 0 12

end Field

/-! ### The decoder -/

/-- The instruction of a word (R87).  The last alternative is the one opcode value left, 15 (`Op.trap`). -/
def decodeWord (ir : Word) : Instr :=
  let op := Field.opcode ir
  if op = Op.br then .br (Field.nzp ir) (Field.pcoffset9 ir)
  else if op = Op.add then
    if Field.mode5 ir then .addImm (Field.reg11 ir) (Field.reg8 ir) (Field.imm5 ir)
    else .add (Field.reg11 ir) (Field.reg8 ir) (Field.ign4 ir) (Field.sr2 ir)
  else if op = Op.ld then .ld (Field.reg11 ir) (Field.pcoffset9 ir)
  else if op = Op.st then .st (Field.reg11 ir) (Field.pcoffset9 ir)
  else if op = Op.jsr then
    if Field.mode11 ir then .jsr (Field.pcoffset11 ir)
    else .jsrr (Field.ign10 ir) (Field.reg8 ir) (Field.low6 ir)
  else if op = Op.and then
    if Field.mode5 ir then .andImm (Field.reg11 ir) (Field.reg8 ir) (Field.imm5 ir)
    else .and (Field.reg11 ir) (Field.reg8 ir) (Field.ign4 ir) (Field.sr2 ir)
  else if op = Op.ldr then .ldr (Field.reg11 ir) (Field.reg8 ir) (Field.low6 ir)
  else if op = Op.str then .str (Field.reg11 ir) (Field.reg8 ir) (Field.low6 ir)
  else if op = Op.rti then .rti (Field.low12 ir)
  else if op = Op.not then .not (Field.reg11 ir) (Field.reg8 ir) (Field.low6 ir)
  else if op = Op.ldi then .ldi (Field.reg11 ir) (Field.pcoffset9 ir)
  else if op = Op.op11 then .op11 (Field.low12 ir)
  else if op = Op.jmp then
    if Field.mode11 ir then .jmppc (Field.pcoffset11 ir)
    else .jmp (Field.ign10 ir) (Field.reg8 ir) (Field.low6 ir)
  else if op = Op.res then .res (Field.low12 ir)
  else if op = Op.lea then .lea (Field.reg11 ir) (Field.pcoffset9 ir)
  else .trap (Field.low12 ir)

/-- Why a list of words holds no instruction. -/
inductive DecodeError where
  /-- the list is empty: an instruction is exactly one Word (R80) -/
  | noWord
  deriving DecidableEq, Repr

/-- The instruction at the head of a list of words and the words after it: one Word an instruction, no other length
(R80, R92). -/
def decode : List Word → Except DecodeError (Instr × List Word)
  | [] => .error .noWord
  | ir :: rest => .ok (decodeWord ir, rest)

/-- The host's question: the instruction of the word `w` of the opcode table, given in `nbits` bits, the bits above
them 0.  An instruction of this hardware is one Word; a wider request is no instruction of it
(notes/assumptions/21.md). -/
def decodeTableWord (nbits w : Nat) : Option Instr :=
  if nbits ≤ 16 then
    match decode [BitVec.ofNat 16 (w % 2 ^ nbits)] with
    | .ok (i, _) => some i
    | .error _ => none
  else none

/-! ### The encoder: the bit strings of R82, field by field -/

/-- A field of `n` bits in its place in a word, its lowest bit at bit `lo` (R8, R83). -/
def putField {n : Nat} (lo : Nat) (v : BitVec n) : Word := v.setWidth 16 <<< lo

/-- The word of an instruction: format by format, the fields of R82 with the opcode of R86. -/
def encode : Instr → Word
  | .br nzp off => putField 12 Op.br ||| putField 9 nzp ||| putField 0 off
  | .add dr sr1 ign sr2 =>
      putField 12 Op.add ||| putField 9 dr ||| putField 6 sr1 ||| putField 5 0#1 ||| putField 3 ign ||| putField 0 sr2
  | .addImm dr sr1 imm => putField 12 Op.add ||| putField 9 dr ||| putField 6 sr1 ||| putField 5 1#1 ||| putField 0 imm
  | .ld dr off => putField 12 Op.ld ||| putField 9 dr ||| putField 0 off
  | .st sr off => putField 12 Op.st ||| putField 9 sr ||| putField 0 off
  | .jsr off => putField 12 Op.jsr ||| putField 11 1#1 ||| putField 0 off
  | .jsrr ignHi baseR ignLo =>
      putField 12 Op.jsr ||| putField 11 0#1 ||| putField 9 ignHi ||| putField 6 baseR ||| putField 0 ignLo
  | .and dr sr1 ign sr2 =>
      putField 12 Op.and ||| putField 9 dr ||| putField 6 sr1 ||| putField 5 0#1 ||| putField 3 ign ||| putField 0 sr2
  | .andImm dr sr1 imm => putField 12 Op.and ||| putField 9 dr ||| putField 6 sr1 ||| putField 5 1#1 ||| putField 0 imm
  | .ldr dr baseR off => putField 12 Op.ldr ||| putField 9 dr ||| putField 6 baseR ||| putField 0 off
  | .str sr baseR off => putField 12 Op.str ||| putField 9 sr ||| putField 6 baseR ||| putField 0 off
  | .rti low => putField 12 Op.rti ||| putField 0 low
  | .not dr sr ign => putField 12 Op.not ||| putField 9 dr ||| putField 6 sr ||| putField 0 ign
  | .ldi dr off => putField 12 Op.ldi ||| putField 9 dr ||| putField 0 off
  | .op11 low => putField 12 Op.op11 ||| putField 0 low
  | .jmp ignHi baseR ignLo =>
      putField 12 Op.jmp ||| putField 11 0#1 ||| putField 9 ignHi ||| putField 6 baseR ||| putField 0 ignLo
  | .jmppc off => putField 12 Op.jmp ||| putField 11 1#1 ||| putField 0 off
  | .res low => putField 12 Op.res ||| putField 0 low
  | .lea dr off => putField 12 Op.lea ||| putField 9 dr ||| putField 0 off
  | .trap low => putField 12 Op.trap ||| putField 0 low

/-! ### The opcode map as rows (R86) -/

/-- One row of the table of R86: a word `w` is the row's instruction exactly when `w & mask = pattern`. -/
structure OpcodeRow where
  mnemonic : String
  mask : Word
  pattern : Word
  deriving DecidableEq, Repr

/-- The twenty rows of R86, in its order. -/
def opcodeRows : List OpcodeRow :=
  [⟨"BR", 0xF000, 0x0000⟩, ⟨"ADD", 0xF020, 0x1000⟩, ⟨"ADD_imm", 0xF020, 0x1020⟩, ⟨"LD", 0xF000, 0x2000⟩,
   ⟨"ST", 0xF000, 0x3000⟩, ⟨"JSR", 0xF800, 0x4800⟩, ⟨"JSRR", 0xF800, 0x4000⟩, ⟨"AND", 0xF020, 0x5000⟩,
   ⟨"AND_imm", 0xF020, 0x5020⟩, ⟨"LDR", 0xF000, 0x6000⟩, ⟨"STR", 0xF000, 0x7000⟩, ⟨"RTI", 0xF000, 0x8000⟩,
   ⟨"NOT", 0xF000, 0x9000⟩, ⟨"LDI", 0xF000, 0xA000⟩, ⟨"OP11", 0xF000, 0xB000⟩, ⟨"JMP", 0xF800, 0xC000⟩,
   ⟨"JMPPC", 0xF800, 0xC800⟩, ⟨"RES", 0xF000, 0xD000⟩, ⟨"LEA", 0xF000, 0xE000⟩, ⟨"TRAP", 0xF000, 0xF000⟩]

/-- The mnemonic of an instruction's row in spec/opcode_table.json. -/
def Instr.mnemonic : Instr → String
  | .br _ _ => "BR"
  | .add _ _ _ _ => "ADD"
  | .addImm _ _ _ => "ADD_imm"
  | .ld _ _ => "LD"
  | .st _ _ => "ST"
  | .jsr _ => "JSR"
  | .jsrr _ _ _ => "JSRR"
  | .and _ _ _ _ => "AND"
  | .andImm _ _ _ => "AND_imm"
  | .ldr _ _ _ => "LDR"
  | .str _ _ _ => "STR"
  | .rti _ => "RTI"
  | .not _ _ _ => "NOT"
  | .ldi _ _ => "LDI"
  | .op11 _ => "OP11"
  | .jmp _ _ _ => "JMP"
  | .jmppc _ => "JMPPC"
  | .res _ => "RES"
  | .lea _ _ => "LEA"
  | .trap _ => "TRAP"

/-- The bits of an instruction's word that its format marks ignored (R82, R88).  Those of TRAP are ignored when no hook
is supplied; those of OP11 are recorded in the fault latch but change nothing else. -/
def Instr.ignoredMask : Instr → Word
  | .add _ _ _ _ | .and _ _ _ _ => 0x0018
  | .not _ _ _ => 0x003F
  | .jsrr _ _ _ | .jmp _ _ _ => 0x063F
  | .rti _ | .res _ | .trap _ | .op11 _ => 0x0FFF
  | .br _ _ | .addImm _ _ _ | .ld _ _ | .st _ _ | .jsr _ | .andImm _ _ _ | .ldr _ _ _ | .str _ _ _ | .ldi _ _
  | .jmppc _ | .lea _ _ => 0x0000

/-! ### The Instruction Encoder of the spec (R95, R96): arguments of any size, masked to their fields -/

namespace Enc

/-- `(arg & mask) << lo` for a field of `n` bits: the argument, of any size, cut to the field (R96). -/
def put (n lo : Nat) (arg : Int) : Word := putField lo (BitVec.ofInt n arg)

def br (nzp n : Int) : Word := 0x0000 ||| put 3 9 nzp ||| put 9 0 n
def add (d a b : Int) : Word := 0x1000 ||| put 3 9 d ||| put 3 6 a ||| put 3 0 b
def addImm (d a n : Int) : Word := 0x1020 ||| put 3 9 d ||| put 3 6 a ||| put 5 0 n
def and (d a b : Int) : Word := 0x5000 ||| put 3 9 d ||| put 3 6 a ||| put 3 0 b
def andImm (d a n : Int) : Word := 0x5020 ||| put 3 9 d ||| put 3 6 a ||| put 5 0 n
def not (d a : Int) : Word := 0x9000 ||| put 3 9 d ||| put 3 6 a
def jsr (n : Int) : Word := 0x4800 ||| put 11 0 n
def jsrr (b : Int) : Word := 0x4000 ||| put 3 6 b
def jmp (b : Int) : Word := 0xC000 ||| put 3 6 b
def jmppc (n : Int) : Word := 0xC800 ||| put 11 0 n
def ld (d n : Int) : Word := 0x2000 ||| put 3 9 d ||| put 9 0 n
def ldi (d n : Int) : Word := 0xA000 ||| put 3 9 d ||| put 9 0 n
def ldr (d b n : Int) : Word := 0x6000 ||| put 3 9 d ||| put 3 6 b ||| put 6 0 n
def lea (d n : Int) : Word := 0xE000 ||| put 3 9 d ||| put 9 0 n
def st (s n : Int) : Word := 0x3000 ||| put 3 9 s ||| put 9 0 n
def str (s b n : Int) : Word := 0x7000 ||| put 3 9 s ||| put 3 6 b ||| put 6 0 n
/-- `TRAP xVV`: R95 writes `0xF000 | VV` and R96 gives `VV` no mask; that it is cut to eight bits is the model's choice
(notes/assumptions/24.md). -/
def trap (v : Int) : Word := 0xF000 ||| put 8 0 v
def rti : Word := 0x8000
def res : Word := 0xD000
/-- `NOP` of R95: BR with `nzp = 0`. -/
def nop : Word := 0x0000
/-- `increment(Rk)` of R94: `ADD Rk, Rk, #1`. -/
def increment (k : Int) : Word := addImm k k 1
/-- `decrement(Rk)` of R94: `ADD Rk, Rk, #-1`. -/
def decrement (k : Int) : Word := addImm k k (-1)

end Enc

end Sys2Proof
end

