-- ==== Sys2Proof/Machine/State.lean ====
section
/-! DEFINITION. The state of the block (10_state.md R20): what the spec gives the machine, and nothing else.  No hidden
state exists (R39), no system register (R33) and no other register file (R37). -/

namespace Sys2Proof.Machine

/-- The three fatal conditions (60_exceptions.md R230), with the cause codes of R35.  Each constructor names the raiser
that R230 gives it; that a trap hook may answer any of them is the model's choice (notes/assumptions/25.md). -/
inductive FaultCause where
  /-- code 1: a STEP whose instruction word has opcode 11 (R231) -/
  | unrecognizedOpcode
  /-- code 2: the host's by-address register port with an address outside 0..7 (R232) -/
  | invalidRegisterAddress
  /-- code 3: the host's plain register write port with the name `COND` (R233) -/
  | directCondWrite
  deriving DecidableEq, Repr

/-- What the fault latch holds when it is not `none` (R35; decision D9).  `place` is the spec's `at` (the address of the
instruction for a step fault, 0 for a host-port fault); `word` is the instruction word, or the offending register
address. -/
structure FaultRecord where
  cause : FaultCause
  place : Word
  word : Word
  deriving DecidableEq, Repr

/-- Why a step ends in `Host.Outcome.fault`.  No meaning of an instruction raises one: the one instruction that faults
takes its fault as R238 describes, which is a next state with the latch set. -/
inductive Fault where
  /-- Raised by `step` when STEP is issued while the fault latch is set: no STEP is accepted and "execution must stop"
  (R238, R240, R263; 93_implementation_defined.md U2).  Safe: the block executes nothing then either. -/
  | stopped (record : FaultRecord)
  deriving DecidableEq, Repr

/-- Why a step ends in `Host.Outcome.refused`. -/
inductive Refusal where
  /-- Raised by an arm of `exec` that has no meaning yet (there is none).  Safe: the model stops. -/
  | notModelled (mnemonic : String)
  /-- Raised by `step` when STEP is issued while `run = 0`: the STEP is refused, no instruction is fetched (R34, R263;
  93_implementation_defined.md U9).  Safe: the block executes nothing then either. -/
  | halted
  deriving DecidableEq, Repr

/-- The memory: the cells that hold something else than the reset word, as pairs of an address and a Word
(20_memory.md R50; notes/assumptions/14.md).  The unit is the Word, since the block has no bytes (R54). -/
abbrev Memory := List (Nat × Word)

/-- The canonical form of a memory: addresses rise strictly, each is the address of a cell, and no entry holds what an
unlisted cell reads as. -/
abbrev Memory.wf (m : Memory) : Prop :=
  m.Pairwise (fun c d => c.1 < d.1) ∧ ∀ c ∈ m, c.1 < Config.memWords ∧ c.2 ≠ Config.memReset

/-- The complete architectural state (R20). -/
structure State where
  /-- `x[0]`..`x[7]`, the general registers `R0`..`R7` (R21) -/
  regs : Vector Word 8
  /-- the program counter (R25) -/
  pc : Word
  /-- the condition-flag register (R28) -/
  cond : Cond
  /-- the running flag: `false` Halted, `true` Running (R34) -/
  run : Bool
  /-- the fault latch, `none` or the record of a fatal condition (R35) -/
  fault : Option FaultRecord
  /-- the memory (R38) -/
  mem : Memory
  deriving DecidableEq, Repr

/-- The machine right after reset (R40, R260): every value is the spec's. -/
def State.reset : State where
  regs := Vector.replicate 8 0
  pc := 0
  cond := Config.condReset
  run := false
  fault := none
  mem := []

end Sys2Proof.Machine
end

