-- ==== Sys2Proof/Machine/Flags.lean ====
section
/-! DEFINITION. The condition-code update logic and the conditional-branch evaluator (10_state.md R28 to R32;
40_step_cycle.md R131). -/

namespace Sys2Proof.Machine

/-- The flag function (R30): Negative if bit 15 is set, else Zero if the value is 0, else Positive. -/
def setcc (v : Word) : Cond :=
  if v.getLsbD 15 then Config.flNeg else if v = 0 then Config.flZro else Config.flPos

/-- The branch evaluator (R131): some flag that the instruction names is set. -/
def branchTaken (nzp cond : Cond) : Bool := (nzp &&& cond) != 0

/-- The code of a cause (R35, R230). -/
def FaultCause.code : FaultCause → Fin 4
  | .unrecognizedOpcode => 1
  | .invalidRegisterAddress => 2
  | .directCondWrite => 3

/-- The cause code of the fault latch: 0 while nothing is latched, else the code of the latched cause (R36). -/
def faultCode : Option FaultRecord → Fin 4
  | none => 0
  | some r => r.cause.code

end Sys2Proof.Machine
end

