-- ==== Sys2Proof/Machine/Ops.lean ====
section
/-! DEFINITION. The named operations over memory, registers and control state that every meaning is written with, and
the entry into a fault.  There is no operation that returns from one: the block has no return from a fault (60_exceptions.md
R240); RTI is a no-op (R211) and only RESET clears the latch (R260). -/

namespace Sys2Proof.Machine

/-! ### Memory (20_memory.md R50 to R53) -/

/-- The Word of cell `a`; a cell that is not listed reads as the reset word (R41). -/
def Memory.read : Memory → Nat → Word
  | [], _ => Config.memReset
  | (b, w) :: m, a => if b = a then w else Memory.read m a

/-- List the cell `a` with the Word `v` before the first cell of a greater address. -/
def Memory.insert (a : Nat) (v : Word) : Memory → Memory
  | [] => [(a, v)]
  | (b, w) :: m => if a < b then (a, v) :: (b, w) :: m else (b, w) :: Memory.insert a v m

/-- No longer list the cell `a`. -/
def Memory.erase (a : Nat) (m : Memory) : Memory := m.filter (fun c => c.1 != a)

/-- The memory with the Word `v` in cell `a`: a cell that comes to hold the reset word is not listed. -/
def Memory.write (a : Nat) (v : Word) (m : Memory) : Memory :=
  if v = Config.memReset then m.erase a else Memory.insert a v (m.erase a)

namespace State

/-- `MemRead(a, 1)` (R52). -/
def memRead (s : State) (a : Word) : Word := s.mem.read a.toNat

/-- `MemWrite(a, 1, v)` (R53). -/
def memWrite (a v : Word) (s : State) : State := { s with mem := s.mem.write a.toNat v }

/-! ### Registers (10_state.md R21 to R31) -/

/-- `x[k]` (R11, R23). -/
def readReg (s : State) (k : RegNum) : Word := s.regs[k.toNat]

/-- The plain write `x[k] <- v`, with no flag effect (R11). -/
def writeReg (k : RegNum) (v : Word) (s : State) : State := { s with regs := s.regs.set k.toNat v }

/-- The flag-updating write `x[k] <-cc v` (R11, R30). -/
def writeRegCC (k : RegNum) (v : Word) (s : State) : State := { s.writeReg k v with cond := setcc v }

/-- The plain write `pc <- t` (R26). -/
def setPc (t : Word) (s : State) : State := { s with pc := t }

/-- The link write: `R7` takes the advanced `pc`, with no flag effect (R24, R161). -/
def link (s : State) : State := s.writeReg Config.linkReg s.pc

/-! ### The fetch (40_step_cycle.md R120) -/

/-- Step 1 of R120: the word at `pc`, read from the memory itself (R63). -/
def fetch (s : State) : Word := s.memRead s.pc

/-- Step 2 of R120: `pc <- pc +w 1`. -/
def advancePc (s : State) : State := s.setPc (s.pc + 1)

/-! ### The fault latch (10_state.md R35; 60_exceptions.md R238, R240) -/

/-- Set the fault latch, unless it is set already: the first record is kept (R35, R240; decision D9). -/
def latch (r : FaultRecord) (s : State) : State := { s with fault := some (s.fault.getD r) }

/-- FAULT ENTRY (R238), from the execute phase of an instruction that has written nothing: the fetch's advance of `pc` is
not committed either, so `pc` is again the address of the instruction, and the latch records the cause, that address and
the word (decisions D9, D10; notes/assumptions/9.md). -/
def takeFault (cause : FaultCause) (ir : Word) (s : State) : State :=
  (s.setPc (s.pc - 1)).latch ⟨cause, s.pc - 1, ir⟩

end State

/-! ### STEP gating (70_reset_and_hazards.md R263) -/

/-- A STEP (R120, R263): accepted exactly when `run = 1` and no fault is latched; then the word at `pc` is fetched, `pc`
advances and `body` executes the word.  Otherwise it stops and says why: a latched fault first, then Halted
(notes/assumptions/10.md). -/
def gateStep (body : Word → State → Host.Outcome State Fault Refusal) (s : State) :
    Host.Outcome State Fault Refusal :=
  match s.fault with
  | some r => .fault (.stopped r)
  | none => if s.run then body s.fetch s.advancePc else .refused .halted

end Sys2Proof.Machine
end

