-- ==== Sys2Proof/Machine/Operands.lean ====
section
/-! DEFINITION. The sign-extension unit, the arithmetic and logic unit and the addressing unit (40_step_cycle.md R124 to
R130).  `s.pc` is the advanced program counter here, as in every instruction rule (00_scope.md R15). -/

namespace Sys2Proof.Machine

/-- `sext_N(v)` (R124). -/
def sext {n : Nat} (v : BitVec n) : Word := v.signExtend 16

/-- `a +w b`, the wrapping addition (R126). -/
def addW (a b : Word) : Word := a + b

/-- `a & b` (R127). -/
def andW (a b : Word) : Word := a &&& b

/-- `~a` (R127). -/
def notW (a : Word) : Word := ~~~a

/-- PC-relative with a 9-bit offset: LD, ST, the value of LEA, the pointer's address of LDI, the target of BR (R130). -/
def eaPc9 (s : State) (pcoffset9 : BitVec 9) : Word := addW s.pc (sext pcoffset9)

/-- PC-relative with an 11-bit offset: the target of JSR and JMPPC (R130). -/
def eaPc11 (s : State) (pcoffset11 : BitVec 11) : Word := addW s.pc (sext pcoffset11)

/-- Base plus offset: LDR, STR (R130). -/
def eaBase6 (s : State) (baseR : RegNum) (offset6 : BitVec 6) : Word := addW (s.readReg baseR) (sext offset6)

/-- Indirect: the address that the pointer cell holds, LDI (R130). -/
def eaIndirect (s : State) (pcoffset9 : BitVec 9) : Word := s.memRead (eaPc9 s pcoffset9)

end Sys2Proof.Machine
end

