-- ==== Sys2Proof/Machine/ArithLogic.lean ====
section
/-! DEFINITION. The meanings of ADD, AND and NOT (41_arith_logic.md R140 to R144).  The state a meaning is given is that
of the execute phase: `pc` is already advanced (R15). -/

namespace Sys2Proof.Machine

/-- ADD, register form (R140). -/
def execAdd (dr sr1 : RegNum) (_ign : BitVec 2) (sr2 : RegNum) (s : State) : Host.Outcome State Fault Refusal :=
  .next (s.writeRegCC dr (addW (s.readReg sr1) (s.readReg sr2)))

/-- ADD, immediate form (R141). -/
def execAddImm (dr sr1 : RegNum) (imm5 : BitVec 5) (s : State) : Host.Outcome State Fault Refusal :=
  .next (s.writeRegCC dr (addW (s.readReg sr1) (sext imm5)))

/-- AND, register form (R142). -/
def execAnd (dr sr1 : RegNum) (_ign : BitVec 2) (sr2 : RegNum) (s : State) : Host.Outcome State Fault Refusal :=
  .next (s.writeRegCC dr (andW (s.readReg sr1) (s.readReg sr2)))

/-- AND, immediate form (R143). -/
def execAndImm (dr sr1 : RegNum) (imm5 : BitVec 5) (s : State) : Host.Outcome State Fault Refusal :=
  .next (s.writeRegCC dr (andW (s.readReg sr1) (sext imm5)))

/-- NOT (R144). -/
def execNot (dr sr : RegNum) (_ign : BitVec 6) (s : State) : Host.Outcome State Fault Refusal :=
  .next (s.writeRegCC dr (notW (s.readReg sr)))

end Sys2Proof.Machine
end

