-- ==== Sys2Proof/Machine/Control.lean ====
section
/-! DEFINITION. The meanings of BR, JSR, JSRR, JMP and JMPPC (42_control.md R160 to R166).  The state a meaning is given
is that of the execute phase: `pc` is already advanced (R15). -/

namespace Sys2Proof.Machine

/-- Link, then jump to the PC-relative target (R161, R164). -/
def linkAndJumpPc11 (pcoffset11 : BitVec 11) (s : State) : State := s.link.setPc (eaPc11 s.link pcoffset11)

/-- Link, then jump to the register, read after the link write (R162, R163, R24). -/
def linkAndJumpReg (baseR : RegNum) (s : State) : State := s.link.setPc (s.link.readReg baseR)

/-- BR (R160). -/
def execBr (nzp : Cond) (pcoffset9 : BitVec 9) (s : State) : Host.Outcome State Fault Refusal :=
  .next (if branchTaken nzp s.cond then s.setPc (eaPc9 s pcoffset9) else s)

/-- JSR (R161). -/
def execJsr (pcoffset11 : BitVec 11) (s : State) : Host.Outcome State Fault Refusal :=
  .next (linkAndJumpPc11 pcoffset11 s)

/-- JSRR (R162). -/
def execJsrr (_ignHi : BitVec 2) (baseR : RegNum) (_ignLo : BitVec 6) (s : State) : Host.Outcome State Fault Refusal :=
  .next (linkAndJumpReg baseR s)

/-- JMP under a reading of opcode 12 (R163; decision D2). -/
def jmpUnder (mode : Config.Opc12Mode) (ignHi : BitVec 2) (baseR : RegNum) (ignLo : BitVec 6) (s : State) :
    Host.Outcome State Fault Refusal :=
  match mode with
  | .linkJump => .next (linkAndJumpReg baseR s)
  | .unimplemented => .next (s.takeFault .unrecognizedOpcode (encode (.jmp ignHi baseR ignLo)))

/-- JMPPC under a reading of opcode 12 (R164; decision D2). -/
def jmppcUnder (mode : Config.Opc12Mode) (pcoffset11 : BitVec 11) (s : State) : Host.Outcome State Fault Refusal :=
  match mode with
  | .linkJump => .next (linkAndJumpPc11 pcoffset11 s)
  | .unimplemented => .next (s.takeFault .unrecognizedOpcode (encode (.jmppc pcoffset11)))

/-- JMP (R163), with `OPC12_MODE` as R6 gives it. -/
def execJmp (ignHi : BitVec 2) (baseR : RegNum) (ignLo : BitVec 6) (s : State) : Host.Outcome State Fault Refusal :=
  jmpUnder Config.opc12Mode ignHi baseR ignLo s

/-- JMPPC (R164), with `OPC12_MODE` as R6 gives it. -/
def execJmppc (pcoffset11 : BitVec 11) (s : State) : Host.Outcome State Fault Refusal :=
  jmppcUnder Config.opc12Mode pcoffset11 s

end Sys2Proof.Machine
end

