-- ==== Sys2Proof/Machine/Load.lean ====
section
/-! DEFINITION. The meanings of LD, LDI, LDR and LEA (43_load.md R180 to R184).  The state a meaning is given is that of
the execute phase: `pc` is already advanced (R15). -/

namespace Sys2Proof.Machine

/-- LD (R180). -/
def execLd (dr : RegNum) (pcoffset9 : BitVec 9) (s : State) : Host.Outcome State Fault Refusal :=
  .next (s.writeRegCC dr (s.memRead (eaPc9 s pcoffset9)))

/-- LDI: the pointer is read first, then the data (R181; decision D16). -/
def execLdi (dr : RegNum) (pcoffset9 : BitVec 9) (s : State) : Host.Outcome State Fault Refusal :=
  .next (s.writeRegCC dr (s.memRead (eaIndirect s pcoffset9)))

/-- LDR (R182). -/
def execLdr (dr baseR : RegNum) (offset6 : BitVec 6) (s : State) : Host.Outcome State Fault Refusal :=
  .next (s.writeRegCC dr (s.memRead (eaBase6 s baseR offset6)))

/-- LEA: the address itself, and it sets the flags (R183; decision D3; notes/assumptions/3.md). -/
def execLea (dr : RegNum) (pcoffset9 : BitVec 9) (s : State) : Host.Outcome State Fault Refusal :=
  .next (s.writeRegCC dr (eaPc9 s pcoffset9))

end Sys2Proof.Machine
end

