-- ==== Sys2Proof/Machine/Store.lean ====
section
/-! DEFINITION. The meanings of ST and STR (44_store.md R200 to R202).  The state a meaning is given is that of the
execute phase: `pc` is already advanced (R15). -/

namespace Sys2Proof.Machine

/-- ST (R200). -/
def execSt (sr : RegNum) (pcoffset9 : BitVec 9) (s : State) : Host.Outcome State Fault Refusal :=
  .next (s.memWrite (eaPc9 s pcoffset9) (s.readReg sr))

/-- STR (R201). -/
def execStr (sr baseR : RegNum) (offset6 : BitVec 6) (s : State) : Host.Outcome State Fault Refusal :=
  .next (s.memWrite (eaBase6 s baseR offset6) (s.readReg sr))

end Sys2Proof.Machine
end

