-- ==== Sys2Proof/Machine/System.lean ====
section
/-! DEFINITION. The meanings of TRAP, RTI, RES and OP11 (45_system.md R210 to R216), and the trap hook (R214).  The state
a meaning is given is that of the execute phase: `pc` is already advanced (R15). -/

namespace Sys2Proof.Machine

/-- The embedding system's handler for opcode 15 (R214; decision D13): from the whole state after the PC advance and the
instruction word to a new state or to a fault.  What R214 and R36 ask of it is `TrapHook.Lawful` (Safety.lean).
DESIGN CHOICE: the fault may have any of the three causes.  R214 says only "to a fault", and R23 and R230 to R233 name the
raisers of each cause and no hook among them (notes/assumptions/25.md). -/
abbrev TrapHook := State → Word → Except FaultCause State

/-- The trap slot (R210).  Without a hook: nothing.  With one: what the hook answers.  A new state is taken over whole, as
R210's `state <- TRAP_HOOK(state, ir)` says; that a hook leaves the fault latch of that state alone is a clause of its
contract and is not enforced here, which is the model's choice (notes/assumptions/23.md).  A fault of the hook is raised
as R13 and R238 say, with nothing of the step committed (notes/assumptions/22.md). -/
def trapSlot (hook : Option TrapHook) (low : BitVec 12) (s : State) : Host.Outcome State Fault Refusal :=
  match hook with
  | none => .next s
  | some h =>
    match h s (encode (.trap low)) with
    | .ok s' => .next s'
    | .error cause => .next (s.takeFault cause (encode (.trap low)))

/-- TRAP, with no hook supplied, which is R6's default: a no-op (R210; notes/assumptions/12.md). -/
def execTrap (low : BitVec 12) (s : State) : Host.Outcome State Fault Refusal := trapSlot none low s

/-- RTI: a no-op (R211). -/
def execRti (_low : BitVec 12) (s : State) : Host.Outcome State Fault Refusal := .next s

/-- RES: a no-op (R212). -/
def execRes (_low : BitVec 12) (s : State) : Host.Outcome State Fault Refusal := .next s

/-- OP11: the fault `UnrecognizedOpcode` is taken (R213, R231, R238; decision D4; notes/assumptions/4.md). -/
def execOp11 (low : BitVec 12) (s : State) : Host.Outcome State Fault Refusal :=
  .next (s.takeFault .unrecognizedOpcode (encode (.op11 low)))

end Sys2Proof.Machine
end

