-- ==== Sys2Proof/Machine/Dispatch.lean ====
section
/-! DEFINITION. The dispatch (40_step_cycle.md R120 step 3; 45_system.md R216): one arm an instruction.  `s` is the state
of the execute phase: the fetch has already advanced `pc`. -/

namespace Sys2Proof.Machine

def exec (i : Instr) (s : State) : Host.Outcome State Fault Refusal :=
  match i with
  | .br nzp off => Sys2Proof.Machine.execBr nzp off s
  | .add dr sr1 ign sr2 => Sys2Proof.Machine.execAdd dr sr1 ign sr2 s
  | .addImm dr sr1 imm => Sys2Proof.Machine.execAddImm dr sr1 imm s
  | .ld dr off => Sys2Proof.Machine.execLd dr off s
  | .st sr off => Sys2Proof.Machine.execSt sr off s
  | .jsr off => Sys2Proof.Machine.execJsr off s
  | .jsrr ignHi baseR ignLo => Sys2Proof.Machine.execJsrr ignHi baseR ignLo s
  | .and dr sr1 ign sr2 => Sys2Proof.Machine.execAnd dr sr1 ign sr2 s
  | .andImm dr sr1 imm => Sys2Proof.Machine.execAndImm dr sr1 imm s
  | .ldr dr baseR off => Sys2Proof.Machine.execLdr dr baseR off s
  | .str sr baseR off => Sys2Proof.Machine.execStr sr baseR off s
  | .rti low => Sys2Proof.Machine.execRti low s
  | .not dr sr ign => Sys2Proof.Machine.execNot dr sr ign s
  | .ldi dr off => Sys2Proof.Machine.execLdi dr off s
  | .op11 low => Sys2Proof.Machine.execOp11 low s
  | .jmp ignHi baseR ignLo => Sys2Proof.Machine.execJmp ignHi baseR ignLo s
  | .jmppc off => Sys2Proof.Machine.execJmppc off s
  | .res low => Sys2Proof.Machine.execRes low s
  | .lea dr off => Sys2Proof.Machine.execLea dr off s
  | .trap low => Sys2Proof.Machine.execTrap low s

end Sys2Proof.Machine
end

