-- ==== Sys2Proof/Machine/Step.lean ====
section
/-! DEFINITION. One STEP of the block (40_step_cycle.md R120 to R123; 70_reset_and_hazards.md R263), and the state in
which the next STEP runs a given word. -/

namespace Sys2Proof.Machine

/-- Execute a word: dispatch on the instruction it decodes to (R87, R120). -/
def execWord (ir : Word) (s : State) : Host.Outcome State Fault Refusal := exec (decodeWord ir) s

/-- STEP (R120, R263). -/
def step (s : State) : Host.Outcome State Fault Refusal := gateStep execWord s

/-- `s` with the instruction of the table word `w` where the next STEP fetches it, and able to accept that STEP: the word
stands at `pc`, the block is Running and no fault is latched, which is what the host's load and START bring about
(R264; notes/assumptions/17.md). -/
def State.withFetchWord (s : State) (nbits w : Nat) : State :=
  { s.memWrite s.pc (BitVec.ofNat 16 (w % 2 ^ nbits)) with run := true, fault := none }

end Sys2Proof.Machine
end

