-- ==== Sys2Proof/Machine/Platform.lean ====
section
/-! DEFINITION. The block with its OPEN parameters as arguments (00_scope.md R6: `ENTRY_ADDRESS`, `TRAP_HOOK`), and with
the described alternative of `OPC12_MODE` (decision D2).  `step` of Step.lean is this machine at the defaults. -/

namespace Sys2Proof.Machine

/-- A value for every parameter of R6 that a model may vary.  The defaults are those of R6. -/
structure Platform where
  /-- `ENTRY_ADDRESS`, the address START loads into `pc` (decision D7) -/
  entryAddress : Word := Config.entryAddress
  /-- `TRAP_HOOK`, absent by default (decision D13) -/
  trapHook : Option TrapHook := none
  /-- `OPC12_MODE` (decision D2) -/
  opc12Mode : Config.Opc12Mode := Config.opc12Mode

/-- The platform of the defaults of R6. -/
def Platform.default : Platform := {}

/-- `exec` on a platform: only TRAP and opcode 12 read its parameters (R163, R164, R214). -/
def execOn (p : Platform) (i : Instr) (s : State) : Host.Outcome State Fault Refusal :=
  match i with
  | .trap low => trapSlot p.trapHook low s
  | .jmp ignHi baseR ignLo => jmpUnder p.opc12Mode ignHi baseR ignLo s
  | .jmppc off => jmppcUnder p.opc12Mode off s
  | .br _ _ | .add _ _ _ _ | .addImm _ _ _ | .ld _ _ | .st _ _ | .jsr _ | .jsrr _ _ _ | .and _ _ _ _ | .andImm _ _ _
  | .ldr _ _ _ | .str _ _ _ | .rti _ | .not _ _ _ | .ldi _ _ | .op11 _ | .res _ | .lea _ _ => exec i s

/-- STEP on a platform (R120, R263). -/
def stepOn (p : Platform) (s : State) : Host.Outcome State Fault Refusal :=
  gateStep (fun ir => execOn p (decodeWord ir)) s

end Sys2Proof.Machine
end

