-- ==== Sys2Proof/Machine/Transactions.lean ====
section
/-! DEFINITION. The host interface: every transaction of 70_reset_and_hazards.md R267, with its precondition, its effect
and what the host gets back (R260 to R268; 20_memory.md R65).  No two transactions overlap and each is atomic. -/

namespace Sys2Proof.Machine

/-- The name of one of the ten slots of the register file (R20, R268). -/
inductive SlotName where
  | pc
  | cond
  | gpr (k : RegNum)
  deriving DecidableEq, Repr

/-- How `REG_WRITE_CC` names its general register: by name or by numeric address (R267, R268). -/
inductive GprTarget where
  | byName (k : RegNum)
  | byAddress (k : Nat)
  deriving DecidableEq, Repr

/-- The transactions of R267. -/
inductive Transaction where
  | reset
  | loaderWrite (a : Nat) (w : Word)
  | loaderRead (a : Nat)
  | start
  | step
  | regRead (name : SlotName)
  | regReadAddr (k : Nat)
  | regWrite (name : SlotName) (v : Word)
  | regWriteCC (target : GprTarget) (v : Word)
  | status
  deriving DecidableEq, Repr

/-- What the host gets back (R267). -/
inductive Response where
  /-- accepted; nothing comes back -/
  | done
  /-- a Word read -/
  | word (w : Word)
  /-- the value of `COND` -/
  | flags (c : Cond)
  /-- an accepted STEP: whether a fault was latched -/
  | stepped (faultLatched : Bool)
  /-- the precondition did not hold: no state change (R262, R263) -/
  | refused
  /-- the access was rejected with a fatal condition (R232, R233) -/
  | rejected (cause : FaultCause)
  /-- `run` and `fault` -/
  | status (run : Bool) (fault : Option FaultRecord)
  deriving DecidableEq, Repr

namespace State

/-- START on a block that accepts it (R262): `pc` and `run`, nothing else. -/
def start (entry : Word) (s : State) : State := { s with pc := entry, run := true }

/-- The rejected access of a host port: the latch, and no other effect (R238). -/
def rejectAccess (cause : FaultCause) (word : Word) (s : State) : State := s.latch ⟨cause, 0, word⟩

/-- The general register of a numeric address, if the address is one of 0..7 (R268; decision D14). -/
def gprOfAddress (k : Nat) : Option RegNum := if k < 8 then some (BitVec.ofNat 3 k) else none

/-- `REG_READ(name)` (R268). -/
def readSlot (s : State) : SlotName → Response
  | .pc => .word s.pc
  | .cond => .flags s.cond
  | .gpr k => .word (s.readReg k)

/-- The latched record's word for a numeric register address: its low 16 bits (R35; notes/assumptions/13.md). -/
def addressWord (k : Nat) : Word := BitVec.ofNat 16 k

end State

/-- One transaction on a platform (R267): the response and the state after it. -/
def transact (p : Platform) (t : Transaction) (s : State) : Response × State :=
  match t with
  | .reset => (.done, State.reset)
  | .loaderWrite a w => (.done, s.memWrite (BitVec.ofNat 16 a) w)
  | .loaderRead a => (.word (s.memRead (BitVec.ofNat 16 a)), s)
  | .start => if s.run = false ∧ s.fault = none then (.done, s.start p.entryAddress) else (.refused, s)
  | .step =>
    match stepOn p s with
    | .next s' => (.stepped s'.fault.isSome, s')
    | .fault _ => (.refused, s)
    | .refused _ => (.refused, s)
  | .regRead name => (s.readSlot name, s)
  | .regReadAddr k =>
    match State.gprOfAddress k with
    | some j => (.word (s.readReg j), s)
    | none => (.rejected .invalidRegisterAddress, s.rejectAccess .invalidRegisterAddress (State.addressWord k))
  | .regWrite name v =>
    match name with
    | .pc => (.done, s.setPc v)
    | .gpr k => (.done, s.writeReg k v)
    | .cond => (.rejected .directCondWrite, s.rejectAccess .directCondWrite 0)
  | .regWriteCC target v =>
    match target with
    | .byName k => (.done, s.writeRegCC k v)
    | .byAddress k =>
      match State.gprOfAddress k with
      | some j => (.done, s.writeRegCC j v)
      | none => (.rejected .invalidRegisterAddress, s.rejectAccess .invalidRegisterAddress (State.addressWord k))
  | .status => (.status s.run s.fault, s)

/-- The state after a list of transactions. -/
def transactAll (p : Platform) : List Transaction → State → State
  | [], s => s
  | t :: ts, s => transactAll p ts (transact p t s).2

/-- A RUN OF n STEPS (R270): n STEP transactions; after a latched fault they change nothing any more. -/
def runSteps (p : Platform) (n : Nat) (s : State) : State := transactAll p (List.replicate n .step) s

/-- The launch of R264: RESET, one LOADER_WRITE for each word of the image, START. -/
def launchSequence (image : List (Nat × Word)) : List Transaction :=
  .reset :: (image.map (fun c => .loaderWrite c.1 c.2) ++ [.start])

/-- The state in which a launched program's first STEP is issued (R264, R265). -/
def launch (p : Platform) (image : List (Nat × Word)) : State := transactAll p (launchSequence image) State.reset

end Sys2Proof.Machine
end

