-- ==== Sys2Proof/Safety.lean ====
section
/-! DEFINITION. The terms that claims about the block are made in: what a state keeps from another, which registers and
cells an instruction reads and writes, what makes a state good and a run safe. -/

namespace Sys2Proof.Machine

/-! ### What is the same in two states -/

/-- Every general register reads the same. -/
def SameGprs (s t : State) : Prop := ∀ j : RegNum, t.readReg j = s.readReg j

/-- Every general register but `k` reads the same. -/
def SameGprsBut (k : RegNum) (s t : State) : Prop := ∀ j : RegNum, j ≠ k → t.readReg j = s.readReg j

/-- Every cell of memory reads the same. -/
def SameMemory (s t : State) : Prop := ∀ b : Word, t.memRead b = s.memRead b

/-- Every cell of memory but `a` reads the same. -/
def SameMemoryBut (a : Word) (s t : State) : Prop := ∀ b : Word, b ≠ a → t.memRead b = s.memRead b

/-- The running flag and the fault latch are the same (R33). -/
def SameControl (s t : State) : Prop := t.run = s.run ∧ t.fault = s.fault

/-- `t` is `s` after the flag-updating write `x[dr] <-cc v`, and nothing else has changed, `pc` included: what the whole
execute phase of a data-producing instruction does (R31). -/
structure FlaggedWriteOnly (dr : RegNum) (v : Word) (s t : State) : Prop where
  written : t.readReg dr = v
  flags : t.cond = setcc v
  otherGprs : SameGprsBut dr s t
  samePc : t.pc = s.pc
  memory : SameMemory s t
  control : SameControl s t

/-- `t` is `s` after a jump to `target` that linked `R7` to the advanced `pc` of `s`, and nothing else has changed (R165). -/
structure LinkedJumpOnly (target : Word) (s t : State) : Prop where
  linked : t.readReg 7 = s.pc
  arrived : t.pc = target
  otherGprs : SameGprsBut 7 s t
  sameCond : t.cond = s.cond
  memory : SameMemory s t
  control : SameControl s t

/-- `t` is `s` after the cell `a` was written with `v`, and nothing else has changed (R202). -/
structure StoreOnly (a v : Word) (s t : State) : Prop where
  stored : t.memRead a = v
  otherCells : SameMemoryBut a s t
  gprs : SameGprs s t
  sameCond : t.cond = s.cond
  samePc : t.pc = s.pc
  control : SameControl s t

/-- Nothing that can be read has changed, but for `pc`, which is `target`. -/
structure PcOnly (target : Word) (s t : State) : Prop where
  arrived : t.pc = target
  gprs : SameGprs s t
  sameCond : t.cond = s.cond
  memory : SameMemory s t
  control : SameControl s t

/-- The address `n` Words from `base`, modulo 65,536 (R51, R130). -/
def wordsFrom (base : Word) (n : Int) : Word := BitVec.ofInt 16 (base.toNat + n)

/-! ### What an instruction reads and writes (10_state.md R23, R31; 20_memory.md R56) -/

/-- The general register that the instruction writes (R23). -/
def gprWritten : Instr → Option RegNum
  | .add dr _ _ _ | .addImm dr _ _ | .and dr _ _ _ | .andImm dr _ _ | .not dr _ _ | .ld dr _ | .ldi dr _
  | .ldr dr _ _ | .lea dr _ => some dr
  | .jsr _ | .jsrr _ _ _ | .jmp _ _ _ | .jmppc _ => some 7
  | .br _ _ | .st _ _ | .str _ _ _ | .rti _ | .op11 _ | .res _ | .trap _ => none

/-- The general registers whose value from before the instruction it reads (R23).  A register jump through `R7` reads the
link that it has itself written, not the value from before (R24). -/
def gprsRead : Instr → List RegNum
  | .add _ sr1 _ sr2 | .and _ sr1 _ sr2 => [sr1, sr2]
  | .addImm _ sr1 _ | .andImm _ sr1 _ => [sr1]
  | .not _ sr _ | .st sr _ => [sr]
  | .ldr _ baseR _ => [baseR]
  | .str sr baseR _ => [sr, baseR]
  | .jsrr _ baseR _ | .jmp _ baseR _ => if baseR = 7 then [] else [baseR]
  | .br _ _ | .ld _ _ | .ldi _ _ | .lea _ _ | .jsr _ | .jmppc _ | .rti _ | .op11 _ | .res _ | .trap _ => []

/-- The seven data-producing instructions of R31 (ADD and AND with their two forms each). -/
def dataProducing : Instr → Bool
  | .add _ _ _ _ | .addImm _ _ _ | .and _ _ _ _ | .andImm _ _ _ | .not _ _ _ | .ld _ _ | .ldi _ _ | .ldr _ _ _
  | .lea _ _ => true
  | .br _ _ | .st _ _ | .jsr _ | .jsrr _ _ _ | .str _ _ _ | .rti _ | .op11 _ | .jmp _ _ _ | .jmppc _ | .res _
  | .trap _ => false

/-- The cell that the instruction stores to, with the address expression of its meaning (R200, R201); no other
instruction stores (R56). -/
def storeAddress : Instr → State → Option Word
  | .st _ off, s => some (eaPc9 s off)
  | .str _ baseR off, s => some (eaBase6 s baseR off)
  | .br _ _, _ | .add _ _ _ _, _ | .addImm _ _ _, _ | .ld _ _, _ | .jsr _, _ | .jsrr _ _ _, _ | .and _ _ _ _, _
  | .andImm _ _ _, _ | .ldr _ _ _, _ | .rti _, _ | .not _ _ _, _ | .ldi _ _, _ | .op11 _, _ | .jmp _ _ _, _
  | .jmppc _, _ | .res _, _ | .lea _ _, _ | .trap _, _ => none

/-- The outcome with its next state changed by `f`. -/
def mapNext (f : State → State) : Host.Outcome State Fault Refusal → Host.Outcome State Fault Refusal
  | .next t => .next (f t)
  | .fault r => .fault r
  | .refused r => .refused r

/-! ### Good states and safe runs -/

/-- `cond` holds exactly one flag: what it always holds from the first flag update on (R29). -/
abbrev OneFlag (c : Cond) : Prop := c = 0b001 ∨ c = 0b010 ∨ c = 0b100

/-- `cond` is legal: one flag, or the reset value before the first flag update (R29, R36). -/
abbrev LegalCond (c : Cond) : Prop := c = 0b000 ∨ OneFlag c

/-- The invariant of the machine: the memory is in its canonical form and `cond` is legal. -/
structure Good (s : State) : Prop where
  memory : s.mem.wf
  cond : LegalCond s.cond

/-- The block accepts a STEP (R263). -/
abbrev Accepting (s : State) : Prop := s.run = true ∧ s.fault = none

/-- The contract of R214 and R36 for a trap hook, with the model's own clause that it hands back a memory in canonical
form.  From a legal `cond` (the only values ever held, R29) it leaves `cond` with one flag, unless `cond` was 0b000 and it
leaves it so.  A new state it answers has the fault latch it was given: a hook writes registers, `pc`, memory and `run`
(R214) and is no writer of `fault` (R36); it raises a fatal condition by answering the fault instead
(notes/assumptions/23.md). -/
structure TrapHook.Lawful (h : TrapHook) : Prop where
  keepsCond : ∀ s ir s', LegalCond s.cond → h s ir = .ok s' → OneFlag s'.cond ∨ (s.cond = 0b000 ∧ s'.cond = 0b000)
  keepsFault : ∀ s ir s', h s ir = .ok s' → s'.fault = s.fault
  keepsMemory : ∀ s ir s', h s ir = .ok s' → s.mem.wf → s'.mem.wf

/-- A platform whose hook, if it has one, keeps its contract. -/
def Platform.Lawful (p : Platform) : Prop := ∀ h, p.trapHook = some h → h.Lawful

/-- What a STEP of `s` raises on a platform: the word at `pc` has opcode 11 (R231), or opcode 12 where the platform gives
that opcode no handler (decision D2), or it is a TRAP whose hook answers the fault (R214), which may have any cause
(notes/assumptions/25.md). -/
def StepRaises (p : Platform) (s : State) (cause : FaultCause) : Prop :=
  (s.fetch.extractLsb' 12 4 = 11#4 ∧ cause = .unrecognizedOpcode) ∨
  (s.fetch.extractLsb' 12 4 = 12#4 ∧ p.opc12Mode = .unimplemented ∧ cause = .unrecognizedOpcode) ∨
  (s.fetch.extractLsb' 12 4 = 15#4 ∧ ∃ h, p.trapHook = some h ∧ h s.advancePc s.fetch = .error cause)

/-- A safe run of `n` steps: every one of them was accepted and no fault is latched at its end (R238, R270: a latched
fault is never a successful end). -/
def SafeRun (n : Nat) (s t : State) : Prop := core.run n s = .next t ∧ t.fault = none

end Sys2Proof.Machine
end

