-- ==== Sys2Proof/Certificates/Slice0/Obligations.lean ====
section
/-! DEFINITION. The statements about the model.  Each docstring names the rule or the section of spec/ it formalises.
Where a statement rests on a decision the spec marks as its own, the docstring names the decision (D<n> of
92_eei_decisions.md) and the entry of notes/assumptions/ that takes it up. -/

open Sys2Proof Sys2Proof.Machine

/-! ### Encoding -/

/-- 30_encoding.md section 3: every word is selected by exactly one row of the opcode map, and decodes to that row's
instruction.  The numbering of the opcodes is decision D1 (notes/assumptions/1.md). -/
def Obligations.OpcodeMapSelectsInstruction : Prop :=
  ∀ w : Word, ∃ r ∈ opcodeRows, w &&& r.mask = r.pattern ∧ (decodeWord w).mnemonic = r.mnemonic ∧
    ∀ r' ∈ opcodeRows, w &&& r'.mask = r'.pattern → r' = r

/-- 30_encoding.md sections 1 and 6: decoding the word of ANY instruction gives it back with every field, the ignored
bits among them.  That a term carries the ignored bits is the model's choice (notes/assumptions/5.md). -/
def Obligations.EncodeThenDecode : Prop := ∀ i : Instr, decodeWord (encode i) = i

/-- 30_encoding.md sections 1 and 3: encoding what ANY word decodes to gives the word back, so that the decoder drops
no bit and no two words share an instruction term.  It holds of every bit because an instruction term carries the
ignored bits, which is the model's choice (notes/assumptions/5.md); the decoder of the spec examines none of them, and
the encoder functions of R96 write zeros there (see EncoderRoundTrip). -/
def Obligations.DecodeThenEncode : Prop := ∀ w : Word, encode (decodeWord w) = w

/-- 30_encoding.md section 6 (the encoder functions and their round trip): the word that an encoder function builds
from arguments of any size decodes to its instruction with every argument cut to its field.  Three clauses are choices
and no rule of the source: the zeros in the ignored bits are decision D17 (notes/assumptions/5.md), the opcode numbers
D1 (notes/assumptions/1.md), and the eight bits of the operand of TRAP the model's own (notes/assumptions/24.md). -/
def Obligations.EncoderRoundTrip : Prop :=
  ∀ a b c : Int,
    decodeWord (Enc.br a b) = .br (BitVec.ofInt 3 a) (BitVec.ofInt 9 b) ∧
    decodeWord (Enc.add a b c) = .add (BitVec.ofInt 3 a) (BitVec.ofInt 3 b) 0 (BitVec.ofInt 3 c) ∧
    decodeWord (Enc.addImm a b c) = .addImm (BitVec.ofInt 3 a) (BitVec.ofInt 3 b) (BitVec.ofInt 5 c) ∧
    decodeWord (Enc.and a b c) = .and (BitVec.ofInt 3 a) (BitVec.ofInt 3 b) 0 (BitVec.ofInt 3 c) ∧
    decodeWord (Enc.andImm a b c) = .andImm (BitVec.ofInt 3 a) (BitVec.ofInt 3 b) (BitVec.ofInt 5 c) ∧
    decodeWord (Enc.not a b) = .not (BitVec.ofInt 3 a) (BitVec.ofInt 3 b) 0 ∧
    decodeWord (Enc.jsr a) = .jsr (BitVec.ofInt 11 a) ∧
    decodeWord (Enc.jsrr a) = .jsrr 0 (BitVec.ofInt 3 a) 0 ∧
    decodeWord (Enc.jmp a) = .jmp 0 (BitVec.ofInt 3 a) 0 ∧
    decodeWord (Enc.jmppc a) = .jmppc (BitVec.ofInt 11 a) ∧
    decodeWord (Enc.ld a b) = .ld (BitVec.ofInt 3 a) (BitVec.ofInt 9 b) ∧
    decodeWord (Enc.ldi a b) = .ldi (BitVec.ofInt 3 a) (BitVec.ofInt 9 b) ∧
    decodeWord (Enc.ldr a b c) = .ldr (BitVec.ofInt 3 a) (BitVec.ofInt 3 b) (BitVec.ofInt 6 c) ∧
    decodeWord (Enc.lea a b) = .lea (BitVec.ofInt 3 a) (BitVec.ofInt 9 b) ∧
    decodeWord (Enc.st a b) = .st (BitVec.ofInt 3 a) (BitVec.ofInt 9 b) ∧
    decodeWord (Enc.str a b c) = .str (BitVec.ofInt 3 a) (BitVec.ofInt 3 b) (BitVec.ofInt 6 c) ∧
    decodeWord (Enc.trap a) = .trap ((BitVec.ofInt 8 a).setWidth 12) ∧
    decodeWord Enc.rti = .rti 0 ∧ decodeWord Enc.res = .res 0

/-- 30_encoding.md section 3 (ignored bits): two words that differ only in bits their format ignores have the same
effect.  OP11 is left out: its fault records the whole word (see UnrecognizedOpcodeEntry).  That ignored bits are not
examined is decision D5 (notes/assumptions/5.md). -/
def Obligations.IgnoredBitsChangeNothing : Prop :=
  ∀ (w w' : Word) (s : State), (decodeWord w).WellFormed → (w ^^^ w') &&& ~~~(decodeWord w).ignoredMask = 0 →
    (decodeWord w').mnemonic = (decodeWord w).mnemonic ∧ exec (decodeWord w') s = exec (decodeWord w) s

/-- 95_test_vectors.md section 2: one written-out word of each family decodes to the instruction the spec gives it.
The opcode bits are decision D1 (notes/assumptions/1.md). -/
def Obligations.SampleWordsDecode : Prop :=
  decodeWord 0x1401 = .add 2 0 0 1 ∧ decodeWord 0x127F = .addImm 1 1 0x1F ∧ decodeWord 0x54F0 = .andImm 2 3 0x10 ∧
  decodeWord 0x923F = .not 1 0 0x3F ∧ decodeWord 0x0A03 = .br 0b101 3 ∧ decodeWord 0x4FFF = .jsr 0x7FF ∧
  decodeWord 0xC180 = .jmp 0 6 0 ∧ decodeWord 0x66A0 = .ldr 3 2 0x20 ∧ decodeWord 0xA804 = .ldi 4 4 ∧
  decodeWord 0x71BF = .str 0 6 0x3F ∧ decodeWord 0xF025 = .trap 0x025 ∧ decodeWord 0xBFFF = .op11 0xFFF

/-! ### The units -/

/-- R30: the flag function, in the words of the rule and in the signed view, and the flag-updating write `x[k] <-cc
v`. -/
def Obligations.FlagFunctionAndFlaggedWrite : Prop :=
  ∀ (k : RegNum) (v : Word) (s : State),
    (v.getLsbD 15 = true → setcc v = 0b100) ∧
    (v.getLsbD 15 = false → v = 0 → setcc v = 0b010) ∧
    (v.getLsbD 15 = false → v ≠ 0 → setcc v = 0b001) ∧
    (setcc v = 0b100 ↔ v.toInt < 0) ∧ (setcc v = 0b010 ↔ v = 0) ∧ (setcc v = 0b001 ↔ 0 < v.toInt) ∧
    FlaggedWriteOnly k v s (s.writeRegCC k v)

/-- R124 and R125: the sign-extension unit for every field width 1 to 16: the formula, the bits above the field, the
signed value, and the field kept. -/
def Obligations.SignExtensionUnit : Prop :=
  ∀ (n : Nat) (v : BitVec n), 1 ≤ n → n ≤ 16 →
    (sext v).toNat = (if v.getLsbD (n - 1) then v.toNat + (65536 - 2 ^ n) else v.toNat) ∧
    (∀ i : Nat, n ≤ i → i < 16 → (sext v).getLsbD i = v.getLsbD (n - 1)) ∧
    (sext v).toInt = (if v.toNat < 2 ^ (n - 1) then (v.toNat : Int) else (v.toNat : Int) - 2 ^ n) ∧
    (sext v).setWidth n = v

/-- 40_step_cycle.md section 4 and 20_memory.md section 1: every effective address is its base plus the signed offset,
modulo 65,536. -/
def Obligations.EffectiveAddressesWrap : Prop :=
  ∀ (s : State) (baseR : RegNum) (o6 : BitVec 6) (o9 : BitVec 9) (o11 : BitVec 11),
    ((eaPc9 s o9).toNat : Int) = (s.pc.toNat + o9.toInt) % 65536 ∧
    ((eaPc11 s o11).toNat : Int) = (s.pc.toNat + o11.toInt) % 65536 ∧
    ((eaBase6 s baseR o6).toNat : Int) = ((s.readReg baseR).toNat + o6.toInt) % 65536 ∧
    eaPc9 s o9 = wordsFrom s.pc o9.toInt ∧ eaPc11 s o11 = wordsFrom s.pc o11.toInt ∧
    eaBase6 s baseR o6 = wordsFrom (s.readReg baseR) o6.toInt ∧
    eaIndirect s o9 = s.memRead (wordsFrom s.pc o9.toInt)

/-! ### Memory -/

/-- R52 and R53: `MemRead` and `MemWrite` at any address, taken modulo 65,536: a read after a write gives the Word
written in that cell and the Word from before in every other, the next fetch of the cell sees it, and nothing else
changes. -/
def Obligations.MemoryReadAndWrite : Prop :=
  ∀ (s : State) (a b : Nat) (v : Word),
    (s.memWrite (BitVec.ofNat 16 a) v).memRead (BitVec.ofNat 16 b) =
      (if b % 65536 = a % 65536 then v else s.memRead (BitVec.ofNat 16 b)) ∧
    ((s.memWrite (BitVec.ofNat 16 a) v).setPc (BitVec.ofNat 16 a)).fetch = v ∧
    StoreOnly (BitVec.ofNat 16 a) v s (s.memWrite (BitVec.ofNat 16 a) v)

/-- The model's canonical form of a memory (notes/assumptions/14.md; the cells are those of 20_memory.md section 1): a
write keeps it, and two memories in it that read alike in every cell are equal. -/
def Obligations.CanonicalMemoriesAreEqualData : Prop :=
  (∀ (m : Memory) (a : Nat) (v : Word), m.wf → a < 65536 → (m.write a v).wf) ∧
  ∀ m m' : Memory, m.wf → m'.wf → (∀ a : Nat, a < 65536 → m.read a = m'.read a) → m = m'

/-! ### Arithmetic and logic: which words, and what they do -/

/-- 41_arith_logic.md, ADD register form: `x[dr] <-cc x[sr1] +w x[sr2]`, the sum modulo 65,536, and nothing else
changes.  The clause on words rests on the opcode number of decision D1, which is the model's choice
(notes/assumptions/1.md). -/
def Obligations.AddRegisterForm : Prop :=
  (∀ w : Word, w.extractLsb' 12 4 = 1#4 → w.getLsbD 5 = false →
    decodeWord w = .add (w.extractLsb' 9 3) (w.extractLsb' 6 3) (w.extractLsb' 3 2) (w.extractLsb' 0 3)) ∧
  ∀ (dr sr1 sr2 : RegNum) (ign : BitVec 2) (s : State), ∃ (v : Word) (t : State),
    exec (.add dr sr1 ign sr2) s = .next t ∧
    v.toNat = ((s.readReg sr1).toNat + (s.readReg sr2).toNat) % 65536 ∧ FlaggedWriteOnly dr v s t

/-- 41_arith_logic.md, ADD immediate form: `x[dr] <-cc x[sr1] +w sext_5(imm5)`, the immediate signed, and nothing else
changes.  The clause on words rests on the opcode number of decision D1, which is the model's choice
(notes/assumptions/1.md). -/
def Obligations.AddImmediateForm : Prop :=
  (∀ w : Word, w.extractLsb' 12 4 = 1#4 → w.getLsbD 5 = true →
    decodeWord w = .addImm (w.extractLsb' 9 3) (w.extractLsb' 6 3) (w.extractLsb' 0 5)) ∧
  ∀ (dr sr1 : RegNum) (imm5 : BitVec 5) (s : State), ∃ (v : Word) (t : State),
    exec (.addImm dr sr1 imm5) s = .next t ∧
    (v.toNat : Int) = ((s.readReg sr1).toNat + imm5.toInt) % 65536 ∧ FlaggedWriteOnly dr v s t

/-- 41_arith_logic.md, AND register form: `x[dr] <-cc x[sr1] & x[sr2]`, bit by bit, and nothing else changes.  The
clause on words rests on the opcode number of decision D1, which is the model's choice (notes/assumptions/1.md). -/
def Obligations.AndRegisterForm : Prop :=
  (∀ w : Word, w.extractLsb' 12 4 = 5#4 → w.getLsbD 5 = false →
    decodeWord w = .and (w.extractLsb' 9 3) (w.extractLsb' 6 3) (w.extractLsb' 3 2) (w.extractLsb' 0 3)) ∧
  ∀ (dr sr1 sr2 : RegNum) (ign : BitVec 2) (s : State), ∃ (v : Word) (t : State),
    exec (.and dr sr1 ign sr2) s = .next t ∧
    (∀ i : Nat, i < 16 → v.getLsbD i = ((s.readReg sr1).getLsbD i && (s.readReg sr2).getLsbD i)) ∧
    FlaggedWriteOnly dr v s t

/-- 41_arith_logic.md, AND immediate form: `x[dr] <-cc x[sr1] & sext_5(imm5)`: bits above 4 of the mask are the
immediate's sign bit.  The clause on words rests on the opcode number of decision D1, which is the model's choice
(notes/assumptions/1.md). -/
def Obligations.AndImmediateForm : Prop :=
  (∀ w : Word, w.extractLsb' 12 4 = 5#4 → w.getLsbD 5 = true →
    decodeWord w = .andImm (w.extractLsb' 9 3) (w.extractLsb' 6 3) (w.extractLsb' 0 5)) ∧
  ∀ (dr sr1 : RegNum) (imm5 : BitVec 5) (s : State), ∃ (v : Word) (t : State),
    exec (.andImm dr sr1 imm5) s = .next t ∧
    (∀ i : Nat, i < 16 → v.getLsbD i = ((s.readReg sr1).getLsbD i && imm5.getLsbD (min i 4))) ∧
    FlaggedWriteOnly dr v s t

/-- 41_arith_logic.md, NOT: `x[dr] <-cc ~x[sr]`, which is 65535 less the operand, and nothing else changes.  The
clause on words rests on the opcode number of decision D1, which is the model's choice (notes/assumptions/1.md). -/
def Obligations.NotComplements : Prop :=
  (∀ w : Word, w.extractLsb' 12 4 = 9#4 →
    decodeWord w = .not (w.extractLsb' 9 3) (w.extractLsb' 6 3) (w.extractLsb' 0 6)) ∧
  ∀ (dr sr : RegNum) (ign : BitVec 6) (s : State), ∃ (v : Word) (t : State),
    exec (.not dr sr ign) s = .next t ∧ v.toNat = 65535 - (s.readReg sr).toNat ∧ FlaggedWriteOnly dr v s t

/-! ### Control transfer -/

/-- 42_control.md, BR: taken when the mask has a bit in common with `cond`; `pc` is the only thing that can change.
The clause on words rests on the opcode number of decision D1, which is the model's choice (notes/assumptions/1.md).
-/
def Obligations.BranchOnFlags : Prop :=
  (∀ w : Word, w.extractLsb' 12 4 = 0#4 → decodeWord w = .br (w.extractLsb' 9 3) (w.extractLsb' 0 9)) ∧
  ∀ (nzp : Cond) (off : BitVec 9) (s : State), ∃ t : State,
    exec (.br nzp off) s = .next t ∧
    PcOnly (if nzp &&& s.cond ≠ 0 then wordsFrom s.pc off.toInt else s.pc) s t

/-- 42_control.md, JSR: `R7` takes the advanced `pc`, then `pc` moves by the signed offset, and nothing else changes.
The clause on words rests on the opcode number of decision D1, which is the model's choice (notes/assumptions/1.md).
-/
def Obligations.JsrLinksAndJumps : Prop :=
  (∀ w : Word, w.extractLsb' 12 4 = 4#4 → w.getLsbD 11 = true → decodeWord w = .jsr (w.extractLsb' 0 11)) ∧
  ∀ (off : BitVec 11) (s : State), ∃ t : State,
    exec (.jsr off) s = .next t ∧ LinkedJumpOnly (wordsFrom s.pc off.toInt) s t

/-- 42_control.md, JSRR: the link is written first, so that through `R7` the target is the link just written.  The
clause on words rests on the opcode number of decision D1, which is the model's choice (notes/assumptions/1.md). -/
def Obligations.JsrrLinksThenJumps : Prop :=
  (∀ w : Word, w.extractLsb' 12 4 = 4#4 → w.getLsbD 11 = false →
    decodeWord w = .jsrr (w.extractLsb' 9 2) (w.extractLsb' 6 3) (w.extractLsb' 0 6)) ∧
  ∀ (ignHi : BitVec 2) (baseR : RegNum) (ignLo : BitVec 6) (s : State), ∃ t : State,
    exec (.jsrr ignHi baseR ignLo) s = .next t ∧ LinkedJumpOnly (if baseR = 7 then s.pc else s.readReg baseR) s t

/-- 42_control.md JMP: a register jump that links.  That opcode 12 runs the JMP/JSR row is decision D2 and its number
D1 (notes/assumptions/2.md and 1.md). -/
def Obligations.JmpLinksThenJumps : Prop :=
  (∀ w : Word, w.extractLsb' 12 4 = 12#4 → w.getLsbD 11 = false →
    decodeWord w = .jmp (w.extractLsb' 9 2) (w.extractLsb' 6 3) (w.extractLsb' 0 6)) ∧
  ∀ (ignHi : BitVec 2) (baseR : RegNum) (ignLo : BitVec 6) (s : State), ∃ t : State,
    exec (.jmp ignHi baseR ignLo) s = .next t ∧ LinkedJumpOnly (if baseR = 7 then s.pc else s.readReg baseR) s t

/-- 42_control.md JMPPC: a PC-relative jump that links.  That opcode 12 runs the JMP/JSR row is decision D2 and its
number D1 (notes/assumptions/2.md and 1.md). -/
def Obligations.JmppcLinksAndJumps : Prop :=
  (∀ w : Word, w.extractLsb' 12 4 = 12#4 → w.getLsbD 11 = true → decodeWord w = .jmppc (w.extractLsb' 0 11)) ∧
  ∀ (off : BitVec 11) (s : State), ∃ t : State,
    exec (.jmppc off) s = .next t ∧ LinkedJumpOnly (wordsFrom s.pc off.toInt) s t

/-! ### Loads -/

/-- 43_load.md, LD: `x[dr] <-cc M[pc +w sext_9(pcoffset9)]`, and nothing else changes.  The clause on words rests on
the opcode number of decision D1, which is the model's choice (notes/assumptions/1.md). -/
def Obligations.LdLoadsPcRelative : Prop :=
  (∀ w : Word, w.extractLsb' 12 4 = 2#4 → decodeWord w = .ld (w.extractLsb' 9 3) (w.extractLsb' 0 9)) ∧
  ∀ (dr : RegNum) (off : BitVec 9) (s : State), ∃ t : State,
    exec (.ld dr off) s = .next t ∧ FlaggedWriteOnly dr (s.memRead (wordsFrom s.pc off.toInt)) s t

/-- 43_load.md, LDI: `x[dr] <-cc M[M[pc +w sext_9(pcoffset9)]]`, and nothing else changes.  The clause on words rests
on the opcode number of decision D1, which is the model's choice (notes/assumptions/1.md). -/
def Obligations.LdiLoadsThroughPointer : Prop :=
  (∀ w : Word, w.extractLsb' 12 4 = 10#4 → decodeWord w = .ldi (w.extractLsb' 9 3) (w.extractLsb' 0 9)) ∧
  ∀ (dr : RegNum) (off : BitVec 9) (s : State), ∃ t : State,
    exec (.ldi dr off) s = .next t ∧ FlaggedWriteOnly dr (s.memRead (s.memRead (wordsFrom s.pc off.toInt))) s t

/-- 43_load.md, LDR: the base register is read before the destination is written, and is changed only where it is the
destination.  The clause on words rests on the opcode number of decision D1, which is the model's choice
(notes/assumptions/1.md). -/
def Obligations.LdrLoadsBasePlusOffset : Prop :=
  (∀ w : Word, w.extractLsb' 12 4 = 6#4 →
    decodeWord w = .ldr (w.extractLsb' 9 3) (w.extractLsb' 6 3) (w.extractLsb' 0 6)) ∧
  ∀ (dr baseR : RegNum) (off : BitVec 6) (s : State), ∃ t : State,
    exec (.ldr dr baseR off) s = .next t ∧
    FlaggedWriteOnly dr (s.memRead (wordsFrom (s.readReg baseR) off.toInt)) s t

/-- 43_load.md LEA: the PC-relative address itself, with the flags set from it.  The layout and the value loaded are
decision D3 (notes/assumptions/3.md), the opcode number D1 (notes/assumptions/1.md); the flag update is the source's.
-/
def Obligations.LeaLoadsAddressAndSetsFlags : Prop :=
  (∀ w : Word, w.extractLsb' 12 4 = 14#4 → decodeWord w = .lea (w.extractLsb' 9 3) (w.extractLsb' 0 9)) ∧
  ∀ (dr : RegNum) (off : BitVec 9) (s : State), ∃ t : State,
    exec (.lea dr off) s = .next t ∧ FlaggedWriteOnly dr (wordsFrom s.pc off.toInt) s t

/-! ### Stores -/

/-- 44_store.md, ST: the cell stored to is that of the meaning's own address expression, which is `pc` plus the signed
offset.  The clause on words rests on the opcode number of decision D1, which is the model's choice
(notes/assumptions/1.md). -/
def Obligations.StStoresPcRelative : Prop :=
  (∀ w : Word, w.extractLsb' 12 4 = 3#4 → decodeWord w = .st (w.extractLsb' 9 3) (w.extractLsb' 0 9)) ∧
  ∀ (sr : RegNum) (off : BitVec 9) (s : State), ∃ t : State,
    exec (.st sr off) s = .next t ∧ storeAddress (.st sr off) s = some (eaPc9 s off) ∧
    eaPc9 s off = wordsFrom s.pc off.toInt ∧ StoreOnly (eaPc9 s off) (s.readReg sr) s t

/-- 44_store.md, STR: the cell stored to is that of the meaning's own address expression, which is the base plus the
signed offset.  The clause on words rests on the opcode number of decision D1, which is the model's choice
(notes/assumptions/1.md). -/
def Obligations.StrStoresBasePlusOffset : Prop :=
  (∀ w : Word, w.extractLsb' 12 4 = 7#4 →
    decodeWord w = .str (w.extractLsb' 9 3) (w.extractLsb' 6 3) (w.extractLsb' 0 6)) ∧
  ∀ (sr baseR : RegNum) (off : BitVec 6) (s : State), ∃ t : State,
    exec (.str sr baseR off) s = .next t ∧ storeAddress (.str sr baseR off) s = some (eaBase6 s baseR off) ∧
    eaBase6 s baseR off = wordsFrom (s.readReg baseR) off.toInt ∧
    StoreOnly (eaBase6 s baseR off) (s.readReg sr) s t

/-! ### The system slots and the opcode with no handler -/

/-- 45_system.md TRAP (no hook), RTI and RES: nothing changes in the execute phase, and every filling of the low bits
is the same.  The opcode values of RTI and RES are decision D1; the absent hook is the default of D13
(notes/assumptions/1.md and 12.md). -/
def Obligations.NoOpSlots : Prop :=
  (∀ w : Word, w.extractLsb' 12 4 = 15#4 → decodeWord w = .trap (w.extractLsb' 0 12)) ∧
  (∀ w : Word, w.extractLsb' 12 4 = 8#4 → decodeWord w = .rti (w.extractLsb' 0 12)) ∧
  (∀ w : Word, w.extractLsb' 12 4 = 13#4 → decodeWord w = .res (w.extractLsb' 0 12)) ∧
  ∀ (low : BitVec 12) (s : State),
    exec (.trap low) s = .next s ∧ exec (.rti low) s = .next s ∧ exec (.res low) s = .next s

/-- 45_system.md OP11 and 60_exceptions.md section 4: the fault is taken: the latch records the cause, the address of
the word and the word, `pc` is again that address, and nothing else changes; a record already latched is kept.  Rests
on decisions D4, D9 and D10 (notes/assumptions/4.md, 8.md and 9.md). -/
def Obligations.UnrecognizedOpcodeEntry : Prop :=
  (∀ w : Word, w.extractLsb' 12 4 = 11#4 → decodeWord w = .op11 (w.extractLsb' 0 12)) ∧
  ∀ (low : BitVec 12) (s : State), ∃ t : State,
    exec (.op11 low) s = .next t ∧
    (s.fault = none → t.fault = some ⟨.unrecognizedOpcode, s.pc - 1, 0xB000 ||| low.setWidth 16⟩) ∧
    (∀ r, s.fault = some r → t.fault = some r) ∧
    t.pc = s.pc - 1 ∧ SameGprs s t ∧ t.cond = s.cond ∧ SameMemory s t ∧ t.run = s.run

/-- 60_exceptions.md section 4: a STEP that meets a word of opcode 11 commits nothing: the state after it is the state
before it with the latch set, and every STEP after that stops.  Rests on decisions D4, D9, D10 and D11
(notes/assumptions/4.md, 8.md, 9.md and 10.md). -/
def Obligations.FaultedStepCommitsNothing : Prop :=
  ∀ s : State, Accepting s → s.fetch.extractLsb' 12 4 = 11#4 →
    step s = .next { s with fault := some ⟨.unrecognizedOpcode, s.pc, s.fetch⟩ } ∧
    step { s with fault := some ⟨.unrecognizedOpcode, s.pc, s.fetch⟩ } =
      .fault (.stopped ⟨.unrecognizedOpcode, s.pc, s.fetch⟩)

/-! ### The step -/

/-- 40_step_cycle.md section 1: an accepted STEP whose word at `pc` decodes to `i` is `exec i` after `pc` has advanced
by one. -/
def Obligations.StepRunsDecodedInstruction : Prop :=
  ∀ (s : State) (i : Instr), Accepting s → decodeWord (s.memRead s.pc) = i →
    step s = exec i { s with pc := s.pc + 1 }

/-- 70_reset_and_hazards.md section 1: on every platform a STEP is accepted exactly when `run = 1` and no fault is
latched; an accepted STEP answers a next state, and a refused one changes nothing.  Decision D11
(notes/assumptions/10.md). -/
def Obligations.StepGating : Prop :=
  ∀ (p : Platform) (s : State),
    (Accepting s → ∃ t, stepOn p s = .next t ∧ transact p .step s = (.stepped t.fault.isSome, t)) ∧
    (¬ Accepting s → (∀ t, stepOn p s ≠ .next t) ∧ transact p .step s = (.refused, s)) ∧
    (s.run = false → s.fault = none → step s = .refused .halted) ∧
    (∀ r, s.fault = some r → step s = .fault (.stopped r))

/-! ### What the instructions may touch -/

/-- R31: the seven data-producing instructions set the flags from the value they write, on every execution, and no
other instruction, no link write and no write of `pc` changes them. -/
def Obligations.OnlyDataInstructionsWriteFlags : Prop :=
  (∀ (i : Instr) (s t : State), exec i s = .next t →
    (dataProducing i = true → ∃ d, gprWritten i = some d ∧ t.cond = setcc (t.readReg d)) ∧
    (dataProducing i = false → t.cond = s.cond)) ∧
  ∀ (s : State) (x : Word), s.link.cond = s.cond ∧ (s.setPc x).cond = s.cond ∧ s.advancePc.cond = s.cond

/-- 10_state.md section 2: the only general register an instruction changes is the one the table gives it. -/
def Obligations.RegisterWritesFollowTable : Prop :=
  ∀ (i : Instr) (s t : State) (j : RegNum), exec i s = .next t → gprWritten i ≠ some j → t.readReg j = s.readReg j

/-- 10_state.md section 2: a general register that the table does not list among those read has no influence: changing
it before the instruction changes that register after it (unless the instruction writes it) and nothing else. -/
def Obligations.UnreadRegistersDoNotMatter : Prop :=
  ∀ (i : Instr) (s : State) (k : RegNum) (v : Word), k ∉ gprsRead i →
    exec i (s.writeReg k v) = mapNext (fun t => if gprWritten i = some k then t else t.writeReg k v) (exec i s)

/-- 20_memory.md section 2: a store changes its one cell, computed by the address expression of its meaning, and every
other instruction leaves every cell. -/
def Obligations.MemoryChangesOnlyByStores : Prop :=
  ∀ (i : Instr) (s t : State), exec i s = .next t →
    (∀ a, storeAddress i s = some a → SameMemoryBut a s t) ∧ (storeAddress i s = none → SameMemory s t)

/-- 10_state.md section 5: no legal instruction reads or writes the running flag or the fault latch. -/
def Obligations.ControlStateOutOfReach : Prop :=
  ∀ (i : Instr) (s : State) (b : Bool) (f : Option FaultRecord), i.WellFormed →
    exec i { s with run := b, fault := f } = mapNext (fun t => { t with run := b, fault := f }) (exec i s)

/-- 60_exceptions.md section 1: every instruction completes in every state; the legal ones raise no fault, under any
operands and any state, and OP11 always raises `UnrecognizedOpcode`.  That OP11 is the opcode without a handler is
decision D4 (notes/assumptions/4.md). -/
def Obligations.OnlyOp11RaisesAFault : Prop :=
  ∀ (i : Instr) (s : State), ∃ t : State,
    exec i s = .next t ∧ t.run = s.run ∧ (i.WellFormed → t.fault = s.fault) ∧
    (¬ i.WellFormed → s.fault = none → ∃ r, t.fault = some r ∧ r.cause = .unrecognizedOpcode)

/-- 10_state.md section 9: a Running block whose memory reads 0 everywhere executes no-ops: `n` steps move `pc` on by
`n`, modulo 65,536, and change nothing else.  That the word 0x0000 is a BR with `nzp` 0 rests on the opcode number of
decision D1 (notes/assumptions/1.md). -/
def Obligations.NeverWrittenMemoryIsNoOps : Prop :=
  ∀ (n : Nat) (s : State), Accepting s → (∀ a : Word, s.memRead a = 0) →
    core.run n s = .next { s with pc := s.pc + BitVec.ofNat 16 n }

/-- 20_memory.md section 5: a store into the next word in sequence is seen by the very next fetch: the stored word is
the one executed. -/
def Obligations.StoreSeenByNextFetch : Prop :=
  ∀ (s : State) (sr baseR : RegNum) (o9 : BitVec 9) (o6 : BitVec 6), Accepting s →
    (decodeWord s.fetch = .st sr o9 → eaPc9 s.advancePc o9 = s.pc + 1 →
      ∃ t, step s = .next t ∧ step t = exec (decodeWord (s.readReg sr)) t.advancePc) ∧
    (decodeWord s.fetch = .str sr baseR o6 → eaBase6 s.advancePc baseR o6 = s.pc + 1 →
      ∃ t, step s = .next t ∧ step t = exec (decodeWord (s.readReg sr)) t.advancePc)

/-! ### Invariants -/

/-- 10_state.md section 9 and 70_reset_and_hazards.md section 1: RESET, in any state, gives the reset state, in which
everything is zero, Halted and without a fault.  `COND_RESET` is decision D6, the latch D9, reset in any state D20
(notes/assumptions/6.md, 8.md and 20.md). -/
def Obligations.ResetClearsEverything : Prop :=
  (∀ (p : Platform) (s : State), transact p .reset s = (.done, State.reset)) ∧
  (∀ k : RegNum, State.reset.readReg k = 0) ∧ (∀ a : Word, State.reset.memRead a = 0) ∧
  State.reset.pc = 0 ∧ State.reset.cond = 0 ∧ State.reset.run = false ∧ State.reset.fault = none

/-- The invariant `Good` (canonical memory, legal `cond`: 10_state.md section 4; notes/assumptions/14.md) holds at
reset. -/
def Obligations.ResetIsGood : Prop := Good State.reset

/-- Every step keeps `Good`: the memory stays canonical and `cond` legal (10_state.md section 4). -/
def Obligations.StepKeepsGood : Prop := ∀ s t : State, Good s → step s = .next t → Good t

/-- 10_state.md section 4: a data-producing instruction leaves exactly one flag set whatever `cond` was, and from then
on every step keeps exactly one; before it, after reset, none is set (conflict C1, decision D6;
notes/assumptions/6.md). -/
def Obligations.OneFlagOnceSet : Prop :=
  State.reset.cond = 0 ∧
  (∀ (i : Instr) (s t : State), dataProducing i = true → exec i s = .next t → OneFlag t.cond) ∧
  ∀ s t : State, OneFlag s.cond → step s = .next t → OneFlag t.cond

/-- Every transaction of the host interface keeps `Good`, under any hook that keeps its contract (45_system.md on the
hook; 70_reset_and_hazards.md section 3).  Decision D13 (notes/assumptions/12.md and 23.md). -/
def Obligations.TransactionsKeepGood : Prop :=
  ∀ (p : Platform) (t : Transaction) (s : State), p.Lawful → Good s → Good (transact p t s).2

/-- Every state that the host can bring about from reset is `Good` (10_state.md section 4; 70_reset_and_hazards.md
section 3), under any hook that keeps its contract.  Decision D13 (notes/assumptions/12.md and 23.md). -/
def Obligations.ReachableStatesAreGood : Prop :=
  ∀ (p : Platform) (ts : List Transaction), p.Lawful → Good (transactAll p ts State.reset)

/-- 10_state.md section 5 and 60_exceptions.md section 5: a latched fault keeps its first record under every
transaction but RESET, whatever the hook.  Decision D9 (notes/assumptions/8.md). -/
def Obligations.FaultLatchSticky : Prop :=
  ∀ (p : Platform) (t : Transaction) (s : State) (r : FaultRecord),
    s.fault = some r → t ≠ .reset → (transact p t s).2.fault = some r

/-- 10_state.md section 5 and 70_reset_and_hazards.md section 1: without a hook, only RESET leaves Running, and only
START enters it. -/
def Obligations.RunFlagChangesByStartAndReset : Prop :=
  ∀ (p : Platform) (t : Transaction) (s : State), p.trapHook = none →
    (s.run = true → t ≠ .reset → (transact p t s).2.run = true) ∧
    (s.run = false → t ≠ .start → (transact p t s).2.run = false)

/-! ### The host interface -/

/-- 70_reset_and_hazards.md section 1: START sets `pc` and `run` and nothing else, from Halted without a fault;
otherwise it is refused with no state change.  Decision D12 (notes/assumptions/11.md). -/
def Obligations.StartTransaction : Prop :=
  ∀ (p : Platform) (s : State),
    (s.run = false → s.fault = none → ∃ t, transact p .start s = (.done, t) ∧ t.pc = p.entryAddress ∧ t.run = true ∧
      t.fault = none ∧ t.cond = s.cond ∧ SameGprs s t ∧ SameMemory s t) ∧
    (s.run = true ∨ s.fault ≠ none → transact p .start s = (.refused, s)) ∧
    Platform.default.entryAddress = 0x3000

/-- R65: the loader port is `MemWrite` and `MemRead` at the address modulo 65,536, and changes no register. -/
def Obligations.LoaderPort : Prop :=
  ∀ (p : Platform) (s : State) (a : Nat) (w : Word),
    (∃ t, transact p (.loaderWrite a w) s = (.done, t) ∧ StoreOnly (BitVec.ofNat 16 (a % 65536)) w s t ∧
      transact p (.loaderRead a) t = (.word w, t)) ∧
    transact p (.loaderRead a) s = (.word (s.memRead (BitVec.ofNat 16 (a % 65536))), s)

/-- 70_reset_and_hazards.md section 3: the register port: reads change nothing; the plain write sets no flag; the
flag-updating write sets them; a numeric address outside 0..7 and the plain write of `COND` latch their fatal
condition and do nothing else.  Decisions D9 and D14 (notes/assumptions/8.md and 13.md). -/
def Obligations.RegisterPort : Prop :=
  ∀ (p : Platform) (s : State) (k : RegNum) (n : Nat) (v : Word),
    transact p (.regRead .pc) s = (.word s.pc, s) ∧ transact p (.regRead .cond) s = (.flags s.cond, s) ∧
    transact p (.regRead (.gpr k)) s = (.word (s.readReg k), s) ∧
    (n < 8 → transact p (.regReadAddr n) s = (.word (s.readReg (BitVec.ofNat 3 n)), s)) ∧
    (8 ≤ n → s.fault = none → transact p (.regReadAddr n) s =
      (.rejected .invalidRegisterAddress, { s with fault := some ⟨.invalidRegisterAddress, 0, BitVec.ofNat 16 n⟩ })) ∧
    (∃ t, transact p (.regWrite .pc v) s = (.done, t) ∧ PcOnly v s t) ∧
    (∃ t, transact p (.regWrite (.gpr k) v) s = (.done, t) ∧ t.readReg k = v ∧ SameGprsBut k s t ∧ t.cond = s.cond ∧
      t.pc = s.pc ∧ SameMemory s t ∧ SameControl s t) ∧
    (s.fault = none → transact p (.regWrite .cond v) s =
      (.rejected .directCondWrite, { s with fault := some ⟨.directCondWrite, 0, 0⟩ })) ∧
    (∃ t, transact p (.regWriteCC (.byName k) v) s = (.done, t) ∧ FlaggedWriteOnly k v s t) ∧
    (n < 8 → ∃ t, transact p (.regWriteCC (.byAddress n) v) s = (.done, t) ∧
      FlaggedWriteOnly (BitVec.ofNat 3 n) v s t) ∧
    (8 ≤ n → s.fault = none → transact p (.regWriteCC (.byAddress n) v) s =
      (.rejected .invalidRegisterAddress, { s with fault := some ⟨.invalidRegisterAddress, 0, BitVec.ofNat 16 n⟩ })) ∧
    transact p .status s = (.status s.run s.fault, s)

/-- 70_reset_and_hazards.md section 2: what a launched program finds at its first instruction: `pc` at the entry
address, registers and `cond` zero, Running without a fault, and in every cell the last word the loader wrote there,
or 0.  Decisions D6 and D7 (notes/assumptions/6.md and 7.md). -/
def Obligations.FreshLaunch : Prop :=
  ∀ (p : Platform) (image : List (Nat × Word)),
    (launch p image).pc = p.entryAddress ∧ Accepting (launch p image) ∧ (launch p image).cond = 0 ∧
    (∀ k : RegNum, (launch p image).readReg k = 0) ∧
    ∀ a : Word, (launch p image).memRead a =
      ((image.reverse.find? (fun c => c.1 % 65536 = a.toNat)).map Prod.snd).getD 0

/-- 45_system.md on the trap hook: a supplied hook runs inside the step on the state after the PC advance and the
whole word, and its answer is the step's; its fault commits nothing.  Decisions D9, D10 and D13
(notes/assumptions/8.md, 9.md and 12.md).  That the step takes the answered state whole, and what is recorded and
committed when the hook answers a fault, are the model's choices (notes/assumptions/23.md and 22.md), and so is that
its fault may have any cause (notes/assumptions/25.md). -/
def Obligations.TrapHookInsideStep : Prop :=
  ∀ (p : Platform) (h : TrapHook) (s : State), p.trapHook = some h → Accepting s → s.fetch.extractLsb' 12 4 = 15#4 →
    (∀ s', h { s with pc := s.pc + 1 } s.fetch = .ok s' → stepOn p s = .next s') ∧
    (∀ c, h { s with pc := s.pc + 1 } s.fetch = .error c →
      stepOn p s = .next { s with fault := some ⟨c, s.pc, s.fetch⟩ })

/-- 00_scope.md section 4: at the default parameters the platform's step is the machine's step; and a hook matters to
no other instruction than TRAP. -/
def Obligations.DefaultPlatformIsTheMachine : Prop :=
  (∀ s : State, stepOn Platform.default s = step s) ∧
  ∀ (p : Platform) (s : State), p.opc12Mode = .linkJump → s.fetch.extractLsb' 12 4 ≠ 15#4 → stepOn p s = step s

/-- 92_eei_decisions.md D2: the described alternative `OPC12_MODE = unimplemented` makes every word of opcode 12 fault
as opcode 11 does (notes/assumptions/2.md). -/
def Obligations.OpcodeTwelveUnimplemented : Prop :=
  ∀ (p : Platform) (s : State), p.opc12Mode = .unimplemented → Accepting s → s.fetch.extractLsb' 12 4 = 12#4 →
    stepOn p s = .next { s with fault := some ⟨.unrecognizedOpcode, s.pc, s.fetch⟩ }

/-- 70_reset_and_hazards.md section 4: a run of STEPs ends at a latched fault: further STEPs change nothing.  Decision
D19 (notes/assumptions/19.md). -/
def Obligations.RunEndsAtFault : Prop :=
  ∀ (p : Platform) (n m : Nat) (s : State), (runSteps p n s).fault ≠ none →
    runSteps p (n + m) s = runSteps p n s

/-! ### Who writes the fault latch -/

/-- 10_state.md section 5 (the summary row of `fault`) and 60_exceptions.md section 4: on every platform whose hook
keeps its contract, a transaction other than RESET that changes the fault latch found it empty, and is a STEP that
raises its cause, with the address and the word of its instruction, or a rejected host access, with address 0; and the
latch is all that it changes.  The latch is decision D9 (notes/assumptions/8.md), the uncommitted step D10
(notes/assumptions/9.md), opcode 12 without a handler D2 (notes/assumptions/2.md), a hook's fault and a hook's
contract the model's choices (notes/assumptions/22.md and 23.md), as is that such a fault may have any cause
(notes/assumptions/25.md). -/
def Obligations.FaultLatchWriters : Prop :=
  ∀ (p : Platform) (t : Transaction) (s : State), p.Lawful → t ≠ .reset → (transact p t s).2.fault ≠ s.fault →
    s.fault = none ∧ ∃ r : FaultRecord, (transact p t s).2 = { s with fault := some r } ∧
      ((t = .step ∧ (transact p t s).1 = .stepped true ∧ StepRaises p s r.cause ∧ r.place = s.pc ∧ r.word = s.fetch) ∨
       (t ≠ .step ∧ (transact p t s).1 = .rejected r.cause ∧ r.place = 0))

/-- 10_state.md section 5 (the summary row of `fault`) and 60_exceptions.md section 1: the cause code of the latch is
0 exactly while nothing is latched, as after reset, and else 1, 2 or 3 by the cause.  The codes are decision D9
(notes/assumptions/8.md). -/
def Obligations.FaultLatchCodes : Prop :=
  faultCode State.reset.fault = 0 ∧ (∀ f : Option FaultRecord, faultCode f = 0 ↔ f = none) ∧
  ∀ a w : Word, faultCode (some ⟨.unrecognizedOpcode, a, w⟩) = 1 ∧
    faultCode (some ⟨.invalidRegisterAddress, a, w⟩) = 2 ∧ faultCode (some ⟨.directCondWrite, a, w⟩) = 3
end

