-- ==== Sys2Proof/Laws/Decode.lean ====
section
/-! SUPPORT. The decoder opcode by opcode (30_encoding.md R87), and the bits of a word built from fields. -/

namespace Sys2Proof

/-! ### The decoder, one law an opcode: cite these instead of unfolding `decodeWord` -/

theorem decodeWord_br {ir : Word} (h : Field.opcode ir = 0) : decodeWord ir =
      .br (Field.nzp ir) (Field.pcoffset9 ir) := by
  simp [decodeWord, h]

theorem decodeWord_add {ir : Word} (h : Field.opcode ir = 1) : decodeWord ir =
      if Field.mode5 ir then .addImm (Field.reg11 ir) (Field.reg8 ir) (Field.imm5 ir)
      else .add (Field.reg11 ir) (Field.reg8 ir) (Field.ign4 ir) (Field.sr2 ir) := by
  simp [decodeWord, h]

theorem decodeWord_ld {ir : Word} (h : Field.opcode ir = 2) : decodeWord ir =
      .ld (Field.reg11 ir) (Field.pcoffset9 ir) := by
  simp [decodeWord, h]

theorem decodeWord_st {ir : Word} (h : Field.opcode ir = 3) : decodeWord ir =
      .st (Field.reg11 ir) (Field.pcoffset9 ir) := by
  simp [decodeWord, h]

theorem decodeWord_jsr {ir : Word} (h : Field.opcode ir = 4) : decodeWord ir =
      if Field.mode11 ir then .jsr (Field.pcoffset11 ir)
      else .jsrr (Field.ign10 ir) (Field.reg8 ir) (Field.low6 ir) := by
  simp [decodeWord, h]

theorem decodeWord_and {ir : Word} (h : Field.opcode ir = 5) : decodeWord ir =
      if Field.mode5 ir then .andImm (Field.reg11 ir) (Field.reg8 ir) (Field.imm5 ir)
      else .and (Field.reg11 ir) (Field.reg8 ir) (Field.ign4 ir) (Field.sr2 ir) := by
  simp [decodeWord, h]

theorem decodeWord_ldr {ir : Word} (h : Field.opcode ir = 6) : decodeWord ir =
      .ldr (Field.reg11 ir) (Field.reg8 ir) (Field.low6 ir) := by
  simp [decodeWord, h]

theorem decodeWord_str {ir : Word} (h : Field.opcode ir = 7) : decodeWord ir =
      .str (Field.reg11 ir) (Field.reg8 ir) (Field.low6 ir) := by
  simp [decodeWord, h]

theorem decodeWord_rti {ir : Word} (h : Field.opcode ir = 8) : decodeWord ir =
      .rti (Field.low12 ir) := by
  simp [decodeWord, h]

theorem decodeWord_not {ir : Word} (h : Field.opcode ir = 9) : decodeWord ir =
      .not (Field.reg11 ir) (Field.reg8 ir) (Field.low6 ir) := by
  simp [decodeWord, h]

theorem decodeWord_ldi {ir : Word} (h : Field.opcode ir = 10) : decodeWord ir =
      .ldi (Field.reg11 ir) (Field.pcoffset9 ir) := by
  simp [decodeWord, h]

theorem decodeWord_op11 {ir : Word} (h : Field.opcode ir = 11) : decodeWord ir =
      .op11 (Field.low12 ir) := by
  simp [decodeWord, h]

theorem decodeWord_jmp {ir : Word} (h : Field.opcode ir = 12) : decodeWord ir =
      if Field.mode11 ir then .jmppc (Field.pcoffset11 ir)
      else .jmp (Field.ign10 ir) (Field.reg8 ir) (Field.low6 ir) := by
  simp [decodeWord, h]

theorem decodeWord_res {ir : Word} (h : Field.opcode ir = 13) : decodeWord ir =
      .res (Field.low12 ir) := by
  simp [decodeWord, h]

theorem decodeWord_lea {ir : Word} (h : Field.opcode ir = 14) : decodeWord ir =
      .lea (Field.reg11 ir) (Field.pcoffset9 ir) := by
  simp [decodeWord, h]

theorem decodeWord_trap {ir : Word} (h : Field.opcode ir = 15) : decodeWord ir =
      .trap (Field.low12 ir) := by
  simp [decodeWord, h]

/-- The opcode of a word is one of the sixteen. -/
theorem opcode_cases (o : BitVec 4) :
    o = 0 ∨ o = 1 ∨ o = 2 ∨ o = 3 ∨ o = 4 ∨ o = 5 ∨ o = 6 ∨ o = 7 ∨ o = 8 ∨ o = 9 ∨ o = 10 ∨ o = 11 ∨ o = 12 ∨ o = 13 ∨
    o = 14 ∨ o = 15 := by
  revert o; decide

/-! ### Bits of a built word -/

theorem getLsbD_putField {n : Nat} (lo : Nat) (v : BitVec n) (i : Nat) :
    (putField lo v).getLsbD i = (decide (i < 16) && decide (lo ≤ i) && v.getLsbD (i - lo)) := by
  simp only [putField, BitVec.getLsbD_shiftLeft, BitVec.getLsbD_setWidth]
  by_cases h : i < 16
  · have h' : i - lo < 16 := by omega
    by_cases hl : lo ≤ i
    · simp [h, h', hl]
    · simp [h, hl]
  · simp [h]

end Sys2Proof
end

