-- ==== Sys2Proof/Laws/Memory.lean ====
section
/-! SUPPORT. The laws of the memory operations: what a read gives after each of them, that each keeps the canonical form,
and that two memories in that form that read alike are equal data. -/

namespace Sys2Proof.Machine.Memory

@[simp] theorem read_nil (a : Nat) : Memory.read [] a = Config.memReset := rfl

@[simp] theorem read_cons (b : Nat) (w : Word) (m : Memory) (a : Nat) :
    Memory.read ((b, w) :: m) a = if b = a then w else m.read a := rfl

/-! ### Reads after erase, insert and write -/

theorem read_erase (a b : Nat) (m : Memory) :
    (m.erase a).read b = if b = a then Config.memReset else m.read b := by
  induction m with
  | nil => simp [Memory.erase]
  | cons c m ih =>
    obtain ⟨k, w⟩ := c
    simp only [Memory.erase] at ih
    by_cases hk : k = a <;> simp [Memory.erase, hk, ih]
    · split <;> simp_all [eq_comm]
    · split <;> simp_all

theorem read_insert_self (a : Nat) (v : Word) (m : Memory) (h : ∀ c ∈ m, c.1 ≠ a) :
    (Memory.insert a v m).read a = v := by
  induction m with
  | nil => simp [Memory.insert]
  | cons c m ih =>
    obtain ⟨k, w⟩ := c
    have hk : k ≠ a := h (k, w) (by simp)
    have hm := ih (fun c hc => h c (by simp [hc]))
    simp only [Memory.insert]
    split <;> simp [hk, hm]

theorem read_insert_other (a b : Nat) (v : Word) (m : Memory) (h : b ≠ a) :
    (Memory.insert a v m).read b = m.read b := by
  induction m with
  | nil => simp [Memory.insert, h.symm]
  | cons c m ih =>
    obtain ⟨k, w⟩ := c
    simp only [Memory.insert]
    split <;> simp [h.symm, ih]

theorem ne_of_mem_erase (a : Nat) (m : Memory) : ∀ c ∈ m.erase a, c.1 ≠ a := by
  intro c hc
  simpa using (List.mem_filter.mp hc).2

/-- A read after a write: the Word written in its cell, and every other cell as before (R53). -/
theorem read_write (a b : Nat) (v : Word) (m : Memory) :
    (m.write a v).read b = if b = a then v else m.read b := by
  unfold Memory.write
  split
  · subst v; exact read_erase a b m
  · by_cases hb : b = a
    · subst b; simp [read_insert_self _ _ _ (ne_of_mem_erase a m)]
    · simp [read_insert_other _ _ _ _ hb, read_erase, hb]

/-! ### The canonical form -/

theorem wf_nil : Memory.wf [] := by simp [Memory.wf]

theorem wf_cons {c : Nat × Word} {m : Memory} :
    Memory.wf (c :: m) ↔ (∀ d ∈ m, c.1 < d.1) ∧ c.1 < Config.memWords ∧ c.2 ≠ Config.memReset ∧ m.wf := by
  simp only [Memory.wf, List.pairwise_cons, List.forall_mem_cons]
  tauto

theorem erase_wf (a : Nat) {m : Memory} (h : m.wf) : (m.erase a).wf :=
  ⟨h.1.filter _, fun c hc => h.2 c (List.mem_filter.mp hc).1⟩

theorem mem_insert {a : Nat} {v : Word} {m : Memory} {c : Nat × Word} :
    c ∈ Memory.insert a v m ↔ c = (a, v) ∨ c ∈ m := by
  induction m with
  | nil => simp [Memory.insert]
  | cons d m ih =>
    simp only [Memory.insert]
    split <;> simp [ih]
    tauto

theorem insert_wf (a : Nat) (v : Word) {m : Memory} (ha : a < Config.memWords) (hv : v ≠ Config.memReset)
    (hm : ∀ c ∈ m, c.1 ≠ a) (h : m.wf) : (Memory.insert a v m).wf := by
  induction m with
  | nil => exact wf_cons.mpr ⟨by simp, ha, hv, wf_nil⟩
  | cons d m ih =>
    obtain ⟨k, w⟩ := d
    obtain ⟨hlt, hk, hw, hwf⟩ := wf_cons.mp h
    have hka : k ≠ a := hm (k, w) (by simp)
    simp only [Memory.insert]
    split
    · rename_i hak
      refine wf_cons.mpr ⟨?_, ha, hv, h⟩
      intro d hd
      rcases List.mem_cons.mp hd with rfl | hd
      · exact hak
      · exact Nat.lt_trans hak (hlt d hd)
    · rename_i hak
      refine wf_cons.mpr ⟨?_, hk, hw, ih (fun c hc => hm c (by simp [hc])) hwf⟩
      intro d hd
      rcases mem_insert.mp hd with rfl | hd
      · change k < a
        omega
      · exact hlt d hd

/-- A write keeps the canonical form. -/
theorem write_wf (a : Nat) (v : Word) {m : Memory} (ha : a < Config.memWords) (h : m.wf) : (m.write a v).wf := by
  unfold Memory.write
  split
  · exact erase_wf a h
  · exact insert_wf a v ha ‹_› (ne_of_mem_erase a m) (erase_wf a h)

theorem read_of_lt (m : Memory) (a : Nat) (h : ∀ c ∈ m, a < c.1) : m.read a = Config.memReset := by
  induction m with
  | nil => rfl
  | cons c m ih =>
    obtain ⟨k, w⟩ := c
    have hk : a < k := h (k, w) (by simp)
    have hne : k ≠ a := by omega
    simp [hne, ih (fun c hc => h c (by simp [hc]))]

end Sys2Proof.Machine.Memory
end

