-- ==== Sys2Proof/Laws/State.lean ====
section
/-! SUPPORT. The small lemmas of State: what each named update does to each field, all by definition, so that no proof
unfolds a record update. -/

namespace Sys2Proof.Machine.State

variable (s : State)

@[simp] theorem writeReg_regs (k : RegNum) (v : Word) : (s.writeReg k v).regs = s.regs.set k.toNat v := rfl
@[simp] theorem writeReg_pc (k : RegNum) (v : Word) : (s.writeReg k v).pc = s.pc := rfl
@[simp] theorem writeReg_cond (k : RegNum) (v : Word) : (s.writeReg k v).cond = s.cond := rfl
@[simp] theorem writeReg_run (k : RegNum) (v : Word) : (s.writeReg k v).run = s.run := rfl
@[simp] theorem writeReg_fault (k : RegNum) (v : Word) : (s.writeReg k v).fault = s.fault := rfl
@[simp] theorem writeReg_mem (k : RegNum) (v : Word) : (s.writeReg k v).mem = s.mem := rfl

@[simp] theorem writeRegCC_regs (k : RegNum) (v : Word) : (s.writeRegCC k v).regs = s.regs.set k.toNat v := rfl
@[simp] theorem writeRegCC_pc (k : RegNum) (v : Word) : (s.writeRegCC k v).pc = s.pc := rfl
@[simp] theorem writeRegCC_cond (k : RegNum) (v : Word) : (s.writeRegCC k v).cond = setcc v := rfl
@[simp] theorem writeRegCC_run (k : RegNum) (v : Word) : (s.writeRegCC k v).run = s.run := rfl
@[simp] theorem writeRegCC_fault (k : RegNum) (v : Word) : (s.writeRegCC k v).fault = s.fault := rfl
@[simp] theorem writeRegCC_mem (k : RegNum) (v : Word) : (s.writeRegCC k v).mem = s.mem := rfl

@[simp] theorem setPc_regs (t : Word) : (s.setPc t).regs = s.regs := rfl
@[simp] theorem setPc_pc (t : Word) : (s.setPc t).pc = t := rfl
@[simp] theorem setPc_cond (t : Word) : (s.setPc t).cond = s.cond := rfl
@[simp] theorem setPc_run (t : Word) : (s.setPc t).run = s.run := rfl
@[simp] theorem setPc_fault (t : Word) : (s.setPc t).fault = s.fault := rfl
@[simp] theorem setPc_mem (t : Word) : (s.setPc t).mem = s.mem := rfl

@[simp] theorem memWrite_regs (a v : Word) : (s.memWrite a v).regs = s.regs := rfl
@[simp] theorem memWrite_pc (a v : Word) : (s.memWrite a v).pc = s.pc := rfl
@[simp] theorem memWrite_cond (a v : Word) : (s.memWrite a v).cond = s.cond := rfl
@[simp] theorem memWrite_run (a v : Word) : (s.memWrite a v).run = s.run := rfl
@[simp] theorem memWrite_fault (a v : Word) : (s.memWrite a v).fault = s.fault := rfl
@[simp] theorem memWrite_mem (a v : Word) : (s.memWrite a v).mem = s.mem.write a.toNat v := rfl

@[simp] theorem latch_regs (r : FaultRecord) : (s.latch r).regs = s.regs := rfl
@[simp] theorem latch_pc (r : FaultRecord) : (s.latch r).pc = s.pc := rfl
@[simp] theorem latch_cond (r : FaultRecord) : (s.latch r).cond = s.cond := rfl
@[simp] theorem latch_run (r : FaultRecord) : (s.latch r).run = s.run := rfl
@[simp] theorem latch_fault (r : FaultRecord) : (s.latch r).fault = some (s.fault.getD r) := rfl
@[simp] theorem latch_mem (r : FaultRecord) : (s.latch r).mem = s.mem := rfl

@[simp] theorem link_regs : s.link.regs = s.regs.set Config.linkReg.toNat s.pc := rfl
@[simp] theorem link_pc : s.link.pc = s.pc := rfl
@[simp] theorem link_cond : s.link.cond = s.cond := rfl
@[simp] theorem link_run : s.link.run = s.run := rfl
@[simp] theorem link_fault : s.link.fault = s.fault := rfl
@[simp] theorem link_mem : s.link.mem = s.mem := rfl

@[simp] theorem advancePc_regs : s.advancePc.regs = s.regs := rfl
@[simp] theorem advancePc_pc : s.advancePc.pc = s.pc + 1 := rfl
@[simp] theorem advancePc_cond : s.advancePc.cond = s.cond := rfl
@[simp] theorem advancePc_run : s.advancePc.run = s.run := rfl
@[simp] theorem advancePc_fault : s.advancePc.fault = s.fault := rfl
@[simp] theorem advancePc_mem : s.advancePc.mem = s.mem := rfl

@[simp] theorem takeFault_regs (c : FaultCause) (ir : Word) : (s.takeFault c ir).regs = s.regs := rfl
@[simp] theorem takeFault_pc (c : FaultCause) (ir : Word) : (s.takeFault c ir).pc = s.pc - 1 := rfl
@[simp] theorem takeFault_cond (c : FaultCause) (ir : Word) : (s.takeFault c ir).cond = s.cond := rfl
@[simp] theorem takeFault_run (c : FaultCause) (ir : Word) : (s.takeFault c ir).run = s.run := rfl
@[simp] theorem takeFault_fault (c : FaultCause) (ir : Word) : (s.takeFault c ir).fault = some (s.fault.getD ⟨c, s.pc - 1, ir⟩) := rfl
@[simp] theorem takeFault_mem (c : FaultCause) (ir : Word) : (s.takeFault c ir).mem = s.mem := rfl

@[simp] theorem start_regs (e : Word) : (s.start e).regs = s.regs := rfl
@[simp] theorem start_pc (e : Word) : (s.start e).pc = e := rfl
@[simp] theorem start_cond (e : Word) : (s.start e).cond = s.cond := rfl
@[simp] theorem start_run (e : Word) : (s.start e).run = true := rfl
@[simp] theorem start_fault (e : Word) : (s.start e).fault = s.fault := rfl
@[simp] theorem start_mem (e : Word) : (s.start e).mem = s.mem := rfl

@[simp] theorem rejectAccess_regs (c : FaultCause) (w : Word) : (s.rejectAccess c w).regs = s.regs := rfl
@[simp] theorem rejectAccess_pc (c : FaultCause) (w : Word) : (s.rejectAccess c w).pc = s.pc := rfl
@[simp] theorem rejectAccess_cond (c : FaultCause) (w : Word) : (s.rejectAccess c w).cond = s.cond := rfl
@[simp] theorem rejectAccess_run (c : FaultCause) (w : Word) : (s.rejectAccess c w).run = s.run := rfl
@[simp] theorem rejectAccess_fault (c : FaultCause) (w : Word) : (s.rejectAccess c w).fault = some (s.fault.getD ⟨c, 0, w⟩) := rfl
@[simp] theorem rejectAccess_mem (c : FaultCause) (w : Word) : (s.rejectAccess c w).mem = s.mem := rfl

/-! ### The same through the read operations: a read sees only the field it reads -/

@[simp] theorem writeReg_memRead (k : RegNum) (v : Word) (x : Word) : (s.writeReg k v).memRead x = s.memRead x := rfl
@[simp] theorem writeRegCC_memRead (k : RegNum) (v : Word) (x : Word) : (s.writeRegCC k v).memRead x = s.memRead x := rfl
@[simp] theorem setPc_readReg (t : Word) (j : RegNum) : (s.setPc t).readReg j = s.readReg j := rfl
@[simp] theorem setPc_memRead (t : Word) (x : Word) : (s.setPc t).memRead x = s.memRead x := rfl
@[simp] theorem memWrite_readReg (a v : Word) (j : RegNum) : (s.memWrite a v).readReg j = s.readReg j := rfl
@[simp] theorem latch_readReg (r : FaultRecord) (j : RegNum) : (s.latch r).readReg j = s.readReg j := rfl
@[simp] theorem latch_memRead (r : FaultRecord) (x : Word) : (s.latch r).memRead x = s.memRead x := rfl
@[simp] theorem link_memRead (x : Word) : s.link.memRead x = s.memRead x := rfl
@[simp] theorem advancePc_readReg (j : RegNum) : s.advancePc.readReg j = s.readReg j := rfl
@[simp] theorem advancePc_memRead (x : Word) : s.advancePc.memRead x = s.memRead x := rfl
@[simp] theorem takeFault_readReg (c : FaultCause) (ir : Word) (j : RegNum) : (s.takeFault c ir).readReg j = s.readReg j := rfl
@[simp] theorem takeFault_memRead (c : FaultCause) (ir : Word) (x : Word) : (s.takeFault c ir).memRead x = s.memRead x := rfl
@[simp] theorem start_readReg (e : Word) (j : RegNum) : (s.start e).readReg j = s.readReg j := rfl
@[simp] theorem start_memRead (e : Word) (x : Word) : (s.start e).memRead x = s.memRead x := rfl
@[simp] theorem rejectAccess_readReg (c : FaultCause) (w : Word) (j : RegNum) : (s.rejectAccess c w).readReg j = s.readReg j := rfl
@[simp] theorem rejectAccess_memRead (c : FaultCause) (w : Word) (x : Word) : (s.rejectAccess c w).memRead x = s.memRead x := rfl

@[simp] theorem link_eq_writeReg : s.link = s.writeReg Config.linkReg s.pc := rfl

end Sys2Proof.Machine.State
end

