-- ==== Sys2Proof/Laws/Ops.lean ====
section
/-! SUPPORT. One law for each shared operation over State: registers, memory, fault entry, STEP gating. -/

namespace Sys2Proof.Machine.State

/-! ### Registers -/

theorem readReg_writeReg (s : State) (k j : RegNum) (v : Word) :
    (s.writeReg k v).readReg j = if k = j then v else s.readReg j := by
  simp [readReg, writeReg, Vector.getElem_set, BitVec.toNat_inj]

@[simp] theorem readReg_writeReg_self (s : State) (k : RegNum) (v : Word) : (s.writeReg k v).readReg k = v := by
  simp [readReg_writeReg]

@[simp] theorem readReg_writeReg_other (s : State) {k j : RegNum} (v : Word) (h : j ≠ k) :
    (s.writeReg k v).readReg j = s.readReg j := by
  simp [readReg_writeReg, h.symm]

theorem readReg_writeRegCC (s : State) (k j : RegNum) (v : Word) :
    (s.writeRegCC k v).readReg j = if k = j then v else s.readReg j := readReg_writeReg s k j v

@[simp] theorem readReg_writeRegCC_self (s : State) (k : RegNum) (v : Word) : (s.writeRegCC k v).readReg k = v := by
  simp [readReg_writeRegCC]

@[simp] theorem readReg_writeRegCC_other (s : State) {k j : RegNum} (v : Word) (h : j ≠ k) :
    (s.writeRegCC k v).readReg j = s.readReg j := by
  simp [readReg_writeRegCC, h.symm]

/-! ### Memory -/

theorem memRead_memWrite (s : State) (a b v : Word) :
    (s.memWrite a v).memRead b = if b = a then v else s.memRead b := by
  simp [memRead, Memory.read_write, BitVec.toNat_inj]

@[simp] theorem memRead_memWrite_self (s : State) (a v : Word) : (s.memWrite a v).memRead a = v := by
  simp [memRead_memWrite]

@[simp] theorem memRead_memWrite_other (s : State) {a b : Word} (v : Word) (h : b ≠ a) :
    (s.memWrite a v).memRead b = s.memRead b := by
  simp [memRead_memWrite, h]

/-- Every write of a cell keeps the canonical form: the address of a Word is the address of a cell. -/
theorem memWrite_wf (s : State) (a v : Word) (h : s.mem.wf) : (s.memWrite a v).mem.wf :=
  Memory.write_wf a.toNat v (by simpa [Config.memWords] using a.isLt) h

theorem reset_mem_wf : State.reset.mem.wf := Memory.wf_nil

theorem withFetchWord_wf (s : State) (nbits w : Nat) (h : s.mem.wf) : (s.withFetchWord nbits w).mem.wf :=
  s.memWrite_wf _ _ h

/-! ### The fault latch -/

theorem latch_of_none (s : State) (r : FaultRecord) (h : s.fault = none) : (s.latch r).fault = some r := by
  simp [h]

theorem latch_keeps_first (s : State) (r r' : FaultRecord) (h : s.fault = some r') : (s.latch r).fault = some r' := by
  simp [h]

/-- Fault entry undoes the fetch's advance of `pc`: after the advance from `s` it is `s` with the latch set (R238). -/
theorem takeFault_advancePc (s : State) (c : FaultCause) (ir : Word) :
    s.advancePc.takeFault c ir = s.latch ⟨c, s.pc, ir⟩ := by
  simp [takeFault, advancePc, setPc, latch]

end Sys2Proof.Machine.State

namespace Sys2Proof.Machine

/-! ### STEP gating (R263) -/

theorem gateStep_accepting (body : Word → State → Host.Outcome State Fault Refusal) {s : State}
    (hr : s.run = true) (hf : s.fault = none) : gateStep body s = body s.fetch s.advancePc := by
  simp [gateStep, hr, hf]

theorem gateStep_faulted (body : Word → State → Host.Outcome State Fault Refusal) {s : State} {r : FaultRecord}
    (hf : s.fault = some r) : gateStep body s = .fault (.stopped r) := by
  simp [gateStep, hf]

theorem gateStep_halted (body : Word → State → Host.Outcome State Fault Refusal) {s : State}
    (hr : s.run = false) (hf : s.fault = none) : gateStep body s = .refused .halted := by
  simp [gateStep, hr, hf]

/-- A gated step answers a next state only when it was accepted, and then it is the body's. -/
theorem gateStep_next (body : Word → State → Host.Outcome State Fault Refusal) {s t : State}
    (h : gateStep body s = .next t) :
    s.run = true ∧ s.fault = none ∧ body s.fetch s.advancePc = .next t := by
  cases hf : s.fault with
  | some r => simp [gateStep_faulted body hf] at h
  | none =>
    cases hr : s.run with
    | false => simp [gateStep_halted body hr hf] at h
    | true => simpa [gateStep_accepting body hr hf] using h

end Sys2Proof.Machine
end

