-- ==== Sys2Proof/Laws/Units.lean ====
section
/-! SUPPORT. The laws of the units: the arithmetic and logic unit, the branch evaluator and the jumps. -/

namespace Sys2Proof.Machine

@[simp] theorem addW_eq (a b : Word) : addW a b = a + b := rfl
@[simp] theorem andW_eq (a b : Word) : andW a b = a &&& b := rfl
@[simp] theorem notW_eq (a : Word) : notW a = ~~~a := rfl

theorem addW_toNat (a b : Word) : (addW a b).toNat = (a.toNat + b.toNat) % 65536 := BitVec.toNat_add a b

/-- The three cases of the flag function (R30). -/
theorem setcc_cases (v : Word) :
    (v.getLsbD 15 = true ∧ setcc v = 0b100) ∨ (v = 0 ∧ setcc v = 0b010) ∨
    (v.getLsbD 15 = false ∧ v ≠ 0 ∧ setcc v = 0b001) := by
  by_cases hn : v.getLsbD 15 = true
  · exact .inl ⟨hn, by rw [setcc, if_pos hn]; rfl⟩
  · by_cases hz : v = 0
    · exact .inr (.inl ⟨hz, by subst hz; rfl⟩)
    · exact .inr (.inr ⟨by simpa using hn, hz, by rw [setcc, if_neg hn, if_neg hz]; rfl⟩)

theorem branchTaken_iff (nzp cond : Cond) : branchTaken nzp cond = true ↔ nzp &&& cond ≠ 0 := by
  simp [branchTaken]

/-- The code of the latch is 0 exactly while nothing is latched (R36). -/
@[simp] theorem faultCode_eq_zero (f : Option FaultRecord) : faultCode f = 0 ↔ f = none := by
  rcases f with _ | ⟨_ | _ | _, _, _⟩ <;> simp [faultCode, FaultCause.code]

/-! ### The two shapes of a linked jump -/

theorem linkAndJumpPc11_eq (off : BitVec 11) (s : State) :
    linkAndJumpPc11 off s = (s.writeReg 7 s.pc).setPc (s.pc + sext off) := rfl

/-- A register jump goes to its register's value, or, through `R7`, to the link it has just written (R162, R24). -/
theorem linkAndJumpReg_eq (baseR : RegNum) (s : State) :
    linkAndJumpReg baseR s = (s.writeReg 7 s.pc).setPc (if baseR = 7 then s.pc else s.readReg baseR) := by
  simp [linkAndJumpReg, Config.linkReg, State.readReg_writeReg, eq_comm]

end Sys2Proof.Machine
end

