-- ==== Sys2Proof/Laws/Exec.lean ====
section
/-! SUPPORT. What each shape of effect is in the terms of Safety.lean, and the meaning of each instruction as one equation
over the shared operations: cite these instead of unfolding `exec`. -/

namespace Sys2Proof.Machine

/-! ### The shapes -/

theorem writeRegCC_flaggedWriteOnly (s : State) (k : RegNum) (v : Word) : FlaggedWriteOnly k v s (s.writeRegCC k v) where
  written := by simp
  flags := rfl
  otherGprs := fun _ hj => by simp [hj]
  samePc := rfl
  memory := fun _ => rfl
  control := ⟨rfl, rfl⟩

theorem link_setPc_linkedJumpOnly (s : State) (target : Word) :
    LinkedJumpOnly target s ((s.writeReg 7 s.pc).setPc target) where
  linked := s.readReg_writeReg_self 7 s.pc
  arrived := rfl
  otherGprs := fun _ hj => s.readReg_writeReg_other s.pc hj
  sameCond := rfl
  memory := fun _ => rfl
  control := ⟨rfl, rfl⟩

theorem memWrite_storeOnly (s : State) (a v : Word) : StoreOnly a v s (s.memWrite a v) where
  stored := by simp
  otherCells := fun _ hb => by simp [hb]
  gprs := fun _ => rfl
  sameCond := rfl
  samePc := rfl
  control := ⟨rfl, rfl⟩

theorem setPc_pcOnly (s : State) (target : Word) : PcOnly target s (s.setPc target) where
  arrived := rfl
  gprs := fun _ => rfl
  sameCond := rfl
  memory := fun _ => rfl
  control := ⟨rfl, rfl⟩

/-! ### The meanings as equations -/

section Equations

variable (s : State)

theorem exec_add (dr sr1 : RegNum) (ign : BitVec 2) (sr2 : RegNum) : exec (.add dr sr1 ign sr2) s =
    .next (s.writeRegCC dr (s.readReg sr1 + s.readReg sr2)) := rfl
theorem exec_addImm (dr sr1 : RegNum) (imm : BitVec 5) : exec (.addImm dr sr1 imm) s =
    .next (s.writeRegCC dr (s.readReg sr1 + sext imm)) := rfl
theorem exec_and (dr sr1 : RegNum) (ign : BitVec 2) (sr2 : RegNum) : exec (.and dr sr1 ign sr2) s =
    .next (s.writeRegCC dr (s.readReg sr1 &&& s.readReg sr2)) := rfl
theorem exec_andImm (dr sr1 : RegNum) (imm : BitVec 5) : exec (.andImm dr sr1 imm) s =
    .next (s.writeRegCC dr (s.readReg sr1 &&& sext imm)) := rfl
theorem exec_not (dr sr : RegNum) (ign : BitVec 6) : exec (.not dr sr ign) s =
    .next (s.writeRegCC dr (~~~(s.readReg sr))) := rfl
theorem exec_br (nzp : Cond) (off : BitVec 9) : exec (.br nzp off) s =
    .next (if branchTaken nzp s.cond then s.setPc (eaPc9 s off) else s) := rfl
theorem exec_jsr (off : BitVec 11) : exec (.jsr off) s =
    .next ((s.writeReg 7 s.pc).setPc (eaPc11 s off)) := rfl
theorem exec_jmppc (off : BitVec 11) : exec (.jmppc off) s =
    .next ((s.writeReg 7 s.pc).setPc (eaPc11 s off)) := rfl
theorem exec_jsrr (ignHi : BitVec 2) (baseR : RegNum) (ignLo : BitVec 6) : exec (.jsrr ignHi baseR ignLo) s =
    .next ((s.writeReg 7 s.pc).setPc (if baseR = 7 then s.pc else s.readReg baseR)) :=
  congrArg Host.Outcome.next (linkAndJumpReg_eq baseR s)
theorem exec_jmp (ignHi : BitVec 2) (baseR : RegNum) (ignLo : BitVec 6) : exec (.jmp ignHi baseR ignLo) s =
    .next ((s.writeReg 7 s.pc).setPc (if baseR = 7 then s.pc else s.readReg baseR)) :=
  congrArg Host.Outcome.next (linkAndJumpReg_eq baseR s)
theorem exec_ld (dr : RegNum) (off : BitVec 9) : exec (.ld dr off) s =
    .next (s.writeRegCC dr (s.memRead (eaPc9 s off))) := rfl
theorem exec_ldi (dr : RegNum) (off : BitVec 9) : exec (.ldi dr off) s =
    .next (s.writeRegCC dr (s.memRead (s.memRead (eaPc9 s off)))) := rfl
theorem exec_ldr (dr baseR : RegNum) (off : BitVec 6) : exec (.ldr dr baseR off) s =
    .next (s.writeRegCC dr (s.memRead (eaBase6 s baseR off))) := rfl
theorem exec_lea (dr : RegNum) (off : BitVec 9) : exec (.lea dr off) s =
    .next (s.writeRegCC dr (eaPc9 s off)) := rfl
theorem exec_st (sr : RegNum) (off : BitVec 9) : exec (.st sr off) s =
    .next (s.memWrite (eaPc9 s off) (s.readReg sr)) := rfl
theorem exec_str (sr baseR : RegNum) (off : BitVec 6) : exec (.str sr baseR off) s =
    .next (s.memWrite (eaBase6 s baseR off) (s.readReg sr)) := rfl
theorem exec_op11 (low : BitVec 12) : exec (.op11 low) s =
    .next (s.takeFault .unrecognizedOpcode (encode (.op11 low))) := rfl
theorem exec_trap (low : BitVec 12) : exec (.trap low) s = .next s := rfl
theorem exec_rti (low : BitVec 12) : exec (.rti low) s = .next s := rfl
theorem exec_res (low : BitVec 12) : exec (.res low) s = .next s := rfl

/-- Everything the trap slot can do. -/
theorem trapSlot_cases (hook : Option TrapHook) (low : BitVec 12) :
    (hook = none ∧ trapSlot hook low s = .next s) ∨
    (∃ h s', hook = some h ∧ h s (encode (.trap low)) = .ok s' ∧ trapSlot hook low s = .next s') ∨
    (∃ h c, hook = some h ∧ h s (encode (.trap low)) = .error c ∧
      trapSlot hook low s = .next (s.takeFault c (encode (.trap low)))) := by
  cases hook with
  | none => exact .inl ⟨rfl, rfl⟩
  | some h =>
    cases hs : h s (encode (.trap low)) with
    | ok s' => exact .inr (.inl ⟨h, s', rfl, hs, by simp only [trapSlot, hs]⟩)
    | error c => exact .inr (.inr ⟨h, c, rfl, hs, by simp only [trapSlot, hs]⟩)

end Equations

/-! ### Runs -/

theorem core_run_zero (s : State) : core.run 0 s = .next s := rfl

theorem run_succ_of_next (M : Host.Core) (n : Nat) {s t : M.State} (h : M.step s = .next t) :
    M.run (n + 1) s = M.run n t := by
  simp only [Host.Core.run, h]

theorem core_run_succ (n : Nat) {s t : State} (h : step s = .next t) : core.run (n + 1) s = core.run n t :=
  run_succ_of_next core n h

theorem transactAll_append (p : Platform) (ts us : List Transaction) (s : State) :
    transactAll p (ts ++ us) s = transactAll p us (transactAll p ts s) := by
  induction ts generalizing s with
  | nil => rfl
  | cons t ts ih => exact ih _

end Sys2Proof.Machine
end

