-- ==== Sys2Proof/Laws/PerInstr.lean ====
section
/-! SUPPORT. Statements about every instruction, one lemma a constructor. -/

/-! ### Family `RowWord`: the encoder writes each instruction's word into its own row of the opcode map (R86) -/

namespace Sys2Proof.Laws.RowWord

/-- The word of `i` has the fixed bits of some row of the map whose mnemonic is that of `i`. -/
def Statement (i : Instr) : Prop :=
  ∃ r ∈ opcodeRows, r.mnemonic = i.mnemonic ∧ encode i &&& r.mask = r.pattern

/-- A word agrees with a pattern under a mask when it does so bit by bit. -/
theorem masked_eq {w mask pattern : Word}
    (h : ∀ i : Nat, i < 16 → (w.getLsbD i && mask.getLsbD i) = pattern.getLsbD i) : w &&& mask = pattern := by
  apply BitVec.eq_of_getLsbD_eq
  intro i hi
  simpa using h i hi

theorem br nzp off : Statement (.br nzp off) := by
  refine ⟨⟨"BR", 0xF000, 0x0000⟩, by simp [opcodeRows], rfl, masked_eq fun i hi => ?_⟩
  interval_cases i <;> simp [encode, putField]

theorem add dr sr1 ign sr2 : Statement (.add dr sr1 ign sr2) := by
  refine ⟨⟨"ADD", 0xF020, 0x1000⟩, by simp [opcodeRows], rfl, masked_eq fun i hi => ?_⟩
  interval_cases i <;> simp [encode, putField]

theorem addImm dr sr1 imm : Statement (.addImm dr sr1 imm) := by
  refine ⟨⟨"ADD_imm", 0xF020, 0x1020⟩, by simp [opcodeRows], rfl, masked_eq fun i hi => ?_⟩
  interval_cases i <;> simp [encode, putField]

theorem ld dr off : Statement (.ld dr off) := by
  refine ⟨⟨"LD", 0xF000, 0x2000⟩, by simp [opcodeRows], rfl, masked_eq fun i hi => ?_⟩
  interval_cases i <;> simp [encode, putField]

theorem st sr off : Statement (.st sr off) := by
  refine ⟨⟨"ST", 0xF000, 0x3000⟩, by simp [opcodeRows], rfl, masked_eq fun i hi => ?_⟩
  interval_cases i <;> simp [encode, putField]

theorem jsr off : Statement (.jsr off) := by
  refine ⟨⟨"JSR", 0xF800, 0x4800⟩, by simp [opcodeRows], rfl, masked_eq fun i hi => ?_⟩
  interval_cases i <;> simp [encode, putField]

theorem jsrr ignHi baseR ignLo : Statement (.jsrr ignHi baseR ignLo) := by
  refine ⟨⟨"JSRR", 0xF800, 0x4000⟩, by simp [opcodeRows], rfl, masked_eq fun i hi => ?_⟩
  interval_cases i <;> simp [encode, putField]

theorem and dr sr1 ign sr2 : Statement (.and dr sr1 ign sr2) := by
  refine ⟨⟨"AND", 0xF020, 0x5000⟩, by simp [opcodeRows], rfl, masked_eq fun i hi => ?_⟩
  interval_cases i <;> simp [encode, putField]

theorem andImm dr sr1 imm : Statement (.andImm dr sr1 imm) := by
  refine ⟨⟨"AND_imm", 0xF020, 0x5020⟩, by simp [opcodeRows], rfl, masked_eq fun i hi => ?_⟩
  interval_cases i <;> simp [encode, putField]

theorem ldr dr baseR off : Statement (.ldr dr baseR off) := by
  refine ⟨⟨"LDR", 0xF000, 0x6000⟩, by simp [opcodeRows], rfl, masked_eq fun i hi => ?_⟩
  interval_cases i <;> simp [encode, putField]

theorem str sr baseR off : Statement (.str sr baseR off) := by
  refine ⟨⟨"STR", 0xF000, 0x7000⟩, by simp [opcodeRows], rfl, masked_eq fun i hi => ?_⟩
  interval_cases i <;> simp [encode, putField]

theorem rti low : Statement (.rti low) := by
  refine ⟨⟨"RTI", 0xF000, 0x8000⟩, by simp [opcodeRows], rfl, masked_eq fun i hi => ?_⟩
  interval_cases i <;> simp [encode, putField]

theorem not dr sr ign : Statement (.not dr sr ign) := by
  refine ⟨⟨"NOT", 0xF000, 0x9000⟩, by simp [opcodeRows], rfl, masked_eq fun i hi => ?_⟩
  interval_cases i <;> simp [encode, putField]

theorem ldi dr off : Statement (.ldi dr off) := by
  refine ⟨⟨"LDI", 0xF000, 0xA000⟩, by simp [opcodeRows], rfl, masked_eq fun i hi => ?_⟩
  interval_cases i <;> simp [encode, putField]

theorem op11 low : Statement (.op11 low) := by
  refine ⟨⟨"OP11", 0xF000, 0xB000⟩, by simp [opcodeRows], rfl, masked_eq fun i hi => ?_⟩
  interval_cases i <;> simp [encode, putField]

theorem jmp ignHi baseR ignLo : Statement (.jmp ignHi baseR ignLo) := by
  refine ⟨⟨"JMP", 0xF800, 0xC000⟩, by simp [opcodeRows], rfl, masked_eq fun i hi => ?_⟩
  interval_cases i <;> simp [encode, putField]

theorem jmppc off : Statement (.jmppc off) := by
  refine ⟨⟨"JMPPC", 0xF800, 0xC800⟩, by simp [opcodeRows], rfl, masked_eq fun i hi => ?_⟩
  interval_cases i <;> simp [encode, putField]

theorem res low : Statement (.res low) := by
  refine ⟨⟨"RES", 0xF000, 0xD000⟩, by simp [opcodeRows], rfl, masked_eq fun i hi => ?_⟩
  interval_cases i <;> simp [encode, putField]

theorem lea dr off : Statement (.lea dr off) := by
  refine ⟨⟨"LEA", 0xF000, 0xE000⟩, by simp [opcodeRows], rfl, masked_eq fun i hi => ?_⟩
  interval_cases i <;> simp [encode, putField]

theorem trap low : Statement (.trap low) := by
  refine ⟨⟨"TRAP", 0xF000, 0xF000⟩, by simp [opcodeRows], rfl, masked_eq fun i hi => ?_⟩
  interval_cases i <;> simp [encode, putField]

end Sys2Proof.Laws.RowWord
end

