-- ==== Sys2Proof/Tests/Slice0.lean ====
section
/-! SUPPORT. The model's own tests.  Expected results come from 95_test_vectors.md (the number of the vector stands before
a test) or from the rule named there, never from the model.  The last part shows, for every obligation with hypotheses,
a concrete state and operands that meet them. -/

namespace Sys2Proof.Machine.Tests

open Sys2Proof.Machine.State

/-! ### Well-formedness: each check refuses an ill-formed term -/

theorem test_wf_legal_refuses_op11 : (Instr.op11 0).legal = false := by decide
theorem test_wf_legal_accepts_ignored_bits : (Instr.not 1 0 0x3F).WellFormed := by decide
theorem test_wf_canonical_refuses_not : (Instr.not 1 0 0x3F).canonical = false := by decide
theorem test_wf_canonical_refuses_add : (Instr.add 0 1 0b01 2).canonical = false := by decide
theorem test_wf_canonical_refuses_jsrr_high : (Instr.jsrr 0b10 3 0).canonical = false := by decide
theorem test_wf_canonical_refuses_jmp_low : (Instr.jmp 0 3 1).canonical = false := by decide
theorem test_wf_canonical_refuses_rti : (Instr.rti 0xABC).canonical = false := by decide
theorem test_wf_canonical_refuses_trap_high : (Instr.trap 0xF00).canonical = false := by decide
theorem test_wf_canonical_accepts_trap : (Instr.trap 0x0FF).canonical = true := by decide
theorem test_wf_canonical_accepts_add : (Instr.add 0 1 0 2).canonical = true := by decide

/-! ### Decoding: words written out bit by bit from the bit strings of R82 and the opcodes of R86 -/

theorem test_decode_br : decodeWord 0b0000_101_000000011 = .br 0b101 3 := by decide
theorem test_decode_add : decodeWord 0b0001_011_001_0_11_010 = .add 3 1 0b11 2 := by decide
theorem test_decode_addImm : decodeWord 0b0001_100_101_1_10000 = .addImm 4 5 0b10000 := by decide
theorem test_decode_ld : decodeWord 0b0010_010_100000001 = .ld 2 0b100000001 := by decide
theorem test_decode_st : decodeWord 0b0011_011_111111111 = .st 3 0b111111111 := by decide
theorem test_decode_jsr : decodeWord 0b0100_1_10000000001 = .jsr 0b10000000001 := by decide
theorem test_decode_jsrr : decodeWord 0b0100_0_11_011_111110 = .jsrr 0b11 3 0b111110 := by decide
theorem test_decode_and : decodeWord 0b0101_010_011_0_10_100 = .and 2 3 0b10 4 := by decide
theorem test_decode_andImm : decodeWord 0b0101_010_011_1_01111 = .andImm 2 3 0b01111 := by decide
theorem test_decode_ldr : decodeWord 0b0110_011_010_100000 = .ldr 3 2 0b100000 := by decide
theorem test_decode_str : decodeWord 0b0111_101_010_000010 = .str 5 2 0b000010 := by decide
theorem test_decode_rti : decodeWord 0b1000_101010111100 = .rti 0xABC := by decide
theorem test_decode_not : decodeWord 0b1001_001_000_111111 = .not 1 0 0b111111 := by decide
theorem test_decode_ldi : decodeWord 0b1010_100_000000100 = .ldi 4 4 := by decide
theorem test_decode_op11 : decodeWord 0b1011_000000000001 = .op11 1 := by decide
theorem test_decode_jmp : decodeWord 0b1100_0_00_110_000000 = .jmp 0 6 0 := by decide
theorem test_decode_jmppc : decodeWord 0b1100_1_00000010000 = .jmppc 16 := by decide
theorem test_decode_res : decodeWord 0b1101_111111111111 = .res 0xFFF := by decide
theorem test_decode_lea : decodeWord 0b1110_010_000000101 = .lea 2 5 := by decide
theorem test_decode_trap : decodeWord 0b1111_000000100101 = .trap 0x025 := by decide
theorem test_decode_empty : decode [] = .error .noWord := by rfl
theorem test_decodeTableWord : decodeTableWord 16 0x923F = some (.not 1 0 0x3F) := by decide
/-- R94, R96 and example S4: `increment(R1)` and the masking of oversized arguments. -/
theorem test_encoder : Enc.increment 1 = 0x1261 ∧ Enc.decrement 1 = 0x127F ∧ Enc.addImm 9 1 33 = 0x1261 ∧
    Enc.ldr 3 2 0x3F = 0x66BF := by decide

/-! ### One STEP on a small state -/

/-- A Running block with the word `w` at `place`, the registers and cells of the lists, and `cond`. -/
def running (place w : Word) (regs : List (RegNum × Word)) (cond : Cond) (cells : List (Word × Word)) : State :=
  let s := regs.foldl (fun s c => s.writeReg c.1 c.2) State.reset
  let s := cells.foldl (fun s c => s.memWrite c.1 c.2) (s.memWrite place w)
  { s with pc := place, cond := cond, run := true }

/-- The step of `s` answers a next state of which `f` holds. -/
def after (s : State) (f : State → Bool) : Bool :=
  match step s with
  | .next t => f t
  | .fault _ => false
  | .refused _ => false

/-- A2 -/
theorem test_add_wraps_same_register : after (running 0x3000 0x1000 [(0, 0x8000)] 0 [])
    (fun t => t.readReg 0 == 0 && t.cond == 0b010 && t.pc == 0x3001) = true := by decide
/-- A4 -/
theorem test_add_ignored_bits : after (running 0x3000 0x165A [(1, 0x7FFF), (2, 1)] 0 [])
    (fun t => t.readReg 3 == 0x8000 && t.cond == 0b100) = true := by decide
/-- A6 -/
theorem test_addImm_decrement : after (running 0x3000 0x127F [] 0 [])
    (fun t => t.readReg 1 == 0xFFFF && t.cond == 0b100) = true := by decide
/-- A8 -/
theorem test_addImm_most_negative : after (running 0x3000 0x1970 [(5, 0x0010)] 0 [])
    (fun t => t.readReg 4 == 0 && t.cond == 0b010) = true := by decide
/-- N2 -/
theorem test_and_register : after (running 0x3000 0x54C4 [(3, 0xF0F0), (4, 0xFF00)] 0 [])
    (fun t => t.readReg 2 == 0xF000 && t.cond == 0b100) = true := by decide
/-- N4 -/
theorem test_andImm_extends_sign : after (running 0x3000 0x54F0 [(3, 0x12FF)] 0 [])
    (fun t => t.readReg 2 == 0x12F0 && t.cond == 0b001) = true := by decide
/-- N5 -/
theorem test_andImm_positive : after (running 0x3000 0x54EF [(3, 0xABCD)] 0 [])
    (fun t => t.readReg 2 == 0x000D && t.cond == 0b001) = true := by decide
/-- T3 -/
theorem test_not_zero : after (running 0x3000 0x9200 [(0, 0xFFFF)] 0 [])
    (fun t => t.readReg 1 == 0 && t.cond == 0b010) = true := by decide
/-- T5 -/
theorem test_not_same_register : after (running 0x3000 0x96FF [(3, 0x8000)] 0 [])
    (fun t => t.readReg 3 == 0x7FFF && t.cond == 0b001) = true := by decide
/-- B4 -/
theorem test_br_before_first_flag : after (running 0x3000 0x0FFF [] 0b000 []) (fun t => t.pc == 0x3001) = true := by
  decide
/-- B11 -/
theorem test_br_wraps_down : after (running 0x0000 0x0FFE [] 0b001 [])
    (fun t => t.pc == 0xFFFF && t.cond == 0b001) = true := by decide
/-- J3 -/
theorem test_jsr_most_negative : after (running 0x3000 0x4C00 [] 0b010 [])
    (fun t => t.readReg 7 == 0x3001 && t.pc == 0x2C01 && t.cond == 0b010) = true := by decide
/-- J11 -/
theorem test_jsr_link_wraps : after (running 0xFFFF 0x4800 [(7, 5)] 0 [])
    (fun t => t.readReg 7 == 0 && t.pc == 0) = true := by decide
/-- J6 -/
theorem test_jsrr_through_link : after (running 0x3000 0x41C0 [(7, 0x5000)] 0 [])
    (fun t => t.readReg 7 == 0x3001 && t.pc == 0x3001) = true := by decide
/-- J7 -/
theorem test_jsrr_ignored_bits : after (running 0x3000 0x46FF [(3, 0x4000)] 0 [])
    (fun t => t.readReg 7 == 0x3001 && t.pc == 0x4000) = true := by decide
/-- J12 -/
theorem test_jmp_links_without_flags : after (running 0x3000 0xC0C0 [(3, 0x4000)] 0b010 [])
    (fun t => t.readReg 7 == 0x3001 && t.pc == 0x4000 && t.cond == 0b010) = true := by decide
/-- J10 -/
theorem test_jmppc : after (running 0x3000 0xC810 [] 0 [])
    (fun t => t.readReg 7 == 0x3001 && t.pc == 0x3011) = true := by decide
/-- L2 -/
theorem test_ld_own_word : after (running 0x3000 0x25FF [] 0 [])
    (fun t => t.readReg 2 == 0x25FF && t.cond == 0b001) = true := by decide
/-- L5 -/
theorem test_ld_wraps : after (running 0xFFFF 0x2001 [] 0 [(0x0001, 0x7777)])
    (fun t => t.readReg 0 == 0x7777 && t.pc == 0) = true := by decide
/-- I3 -/
theorem test_ldi_last_cell : after (running 0x3000 0xA801 [] 0 [(0x3002, 0xFFFF), (0xFFFF, 0x8000)])
    (fun t => t.readReg 4 == 0x8000 && t.cond == 0b100) = true := by decide
/-- R2 of 2.5 -/
theorem test_ldr_wraps_below : after (running 0x3000 0x66A0 [(2, 0x0010)] 0 [(0xFFF0, 1)])
    (fun t => t.readReg 3 == 1 && t.readReg 2 == 0x0010 && t.cond == 0b001) = true := by decide
/-- R4 of 2.5 -/
theorem test_ldr_base_is_destination : after (running 0x3000 0x6481 [(2, 0x4000)] 0b001 [(0x4001, 0), (0x4000, 9)])
    (fun t => t.readReg 2 == 0 && t.cond == 0b010) = true := by decide
/-- E3 -/
theorem test_lea_sets_zero : after (running 0x00FF 0xE100 [(0, 7)] 0b001 [])
    (fun t => t.readReg 0 == 0 && t.cond == 0b010 && t.pc == 0x0100) = true := by decide
/-- E5 -/
theorem test_lea_sets_negative : after (running 0x7F80 0xE07F [] 0 [])
    (fun t => t.readReg 0 == 0x8000 && t.cond == 0b100) = true := by decide
/-- W2 -/
theorem test_st_own_word : after (running 0x3000 0x37FF [(3, 0xABCD)] 0b010 [])
    (fun t => t.memRead 0x3000 == 0xABCD && t.cond == 0b010 && t.pc == 0x3001) = true := by decide
/-- W4 -/
theorem test_st_wraps : after (running 0xFF80 0x32FF [(1, 0x5555)] 0 [])
    (fun t => t.memRead 0x0080 == 0x5555 && t.pc == 0xFF81) = true := by decide
/-- X2 -/
theorem test_str_source_is_base : after (running 0x3000 0x7240 [(1, 0x4000)] 0 [])
    (fun t => t.memRead 0x4000 == 0x4000 && t.readReg 1 == 0x4000) = true := by decide
/-- X4 -/
theorem test_str_wraps_above : after (running 0x3000 0x719F [(0, 9), (6, 0xFFFF)] 0 [])
    (fun t => t.memRead 0x001E == 9) = true := by decide
/-- Y1 -/
theorem test_trap_neither_halts_nor_links : after (running 0x3000 0xF025 [(7, 0x1234)] 0b001 [])
    (fun t => t.pc == 0x3001 && t.readReg 7 == 0x1234 && t.cond == 0b001 && t.run) = true := by decide
/-- Y3 -/
theorem test_rti_noop : after (running 0x3000 0x8ABC [] 0b100 [])
    (fun t => t == { running 0x3000 0x8ABC [] 0b100 [] with pc := 0x3001 }) = true := by decide
/-- Y4 -/
theorem test_res_noop : after (running 0x3000 0xDFFF [] 0b010 [])
    (fun t => t == { running 0x3000 0xDFFF [] 0b010 [] with pc := 0x3001 }) = true := by decide
/-- Y6 -/
theorem test_op11_fault : after (running 0x3000 0xBFFF [(1, 5)] 0b001 [])
    (fun t => t.fault == some ⟨.unrecognizedOpcode, 0x3000, 0xBFFF⟩ && t.pc == 0x3000 && t.readReg 1 == 5 &&
      t.cond == 0b001 && t.run) = true := by decide
/-- Y8 -/
theorem test_step_halted : step State.reset = .refused .halted := by rfl
/-- The host's question: the first word after reset runs. -/
theorem test_withFetchWord : after (State.reset.withFetchWord 16 0x1261) (fun t => t.readReg 1 == 1) = true := by decide

/-! ### Host transactions (95_test_vectors.md 2.8) -/

/-- H2, H3 -/
theorem test_start_twice : (transactAll .default [.reset, .start, .start] State.reset) =
    { State.reset with pc := 0x3000, run := true } := by decide
/-- H5 -/
theorem test_loader : (transact .default (.loaderRead 0x3000)
    (transact .default (.loaderWrite 0x3000 0x1261) State.reset).2).1 = .word 0x1261 := by decide
/-- H6 -/
theorem test_regReadAddr_8 : (transact .default (.regReadAddr 8) State.reset).2.fault =
    some ⟨.invalidRegisterAddress, 0, 8⟩ := by decide
/-- H7 -/
theorem test_regWrite_cond : (transact .default (.regWrite .cond 1) State.reset).2 =
    { State.reset with fault := some ⟨.directCondWrite, 0, 0⟩ } := by decide
/-- H8, H9 -/
theorem test_regWriteCC : (transact .default (.regWriteCC (.byAddress 3) 0x8000) State.reset).2.cond = 0b100 ∧
    (transact .default (.regWrite (.gpr 3) 0x8000) State.reset).2.cond = 0b000 := by decide

/-! ### Witnesses: the hypotheses of the obligations can be met -/

theorem witness_IgnoredBitsChangeNothing : (decodeWord 0x9200).WellFormed ∧
    ((0x9200 : Word) ^^^ 0x923F) &&& ~~~(decodeWord 0x9200).ignoredMask = 0 := by decide
theorem witness_SignExtensionUnit : (1 ≤ 1 ∧ 1 ≤ 16) ∧ (1 ≤ 16 ∧ 16 ≤ 16) ∧ (sext (1#1)).toNat = 0xFFFF := by decide
theorem witness_CanonicalMemoriesAreEqualData : Memory.wf [(0, 1), (65535, 2)] ∧ 65535 < 65536 := by decide
/-- A word that meets the hypotheses of the decoding clause of each instruction's statement. -/
theorem witness_selected_words :
    ((0x101F : Word).extractLsb' 12 4 = 1#4 ∧ (0x101F : Word).getLsbD 5 = false) ∧
    ((0x1020 : Word).extractLsb' 12 4 = 1#4 ∧ (0x1020 : Word).getLsbD 5 = true) ∧
    ((0x501F : Word).extractLsb' 12 4 = 5#4 ∧ (0x501F : Word).getLsbD 5 = false) ∧
    ((0x5FFF : Word).extractLsb' 12 4 = 5#4 ∧ (0x5FFF : Word).getLsbD 5 = true) ∧
    (0x9000 : Word).extractLsb' 12 4 = 9#4 ∧ (0x0FFF : Word).extractLsb' 12 4 = 0#4 ∧
    ((0x4800 : Word).extractLsb' 12 4 = 4#4 ∧ (0x4800 : Word).getLsbD 11 = true) ∧
    ((0x47FF : Word).extractLsb' 12 4 = 4#4 ∧ (0x47FF : Word).getLsbD 11 = false) ∧
    ((0xC7FF : Word).extractLsb' 12 4 = 12#4 ∧ (0xC7FF : Word).getLsbD 11 = false) ∧
    ((0xC800 : Word).extractLsb' 12 4 = 12#4 ∧ (0xC800 : Word).getLsbD 11 = true) ∧
    (0x2FFF : Word).extractLsb' 12 4 = 2#4 ∧ (0xAFFF : Word).extractLsb' 12 4 = 10#4 ∧
    (0x6FFF : Word).extractLsb' 12 4 = 6#4 ∧ (0xE000 : Word).extractLsb' 12 4 = 14#4 ∧
    (0x3FFF : Word).extractLsb' 12 4 = 3#4 ∧ (0x7FFF : Word).extractLsb' 12 4 = 7#4 ∧
    (0xF025 : Word).extractLsb' 12 4 = 15#4 ∧ (0x8FFF : Word).extractLsb' 12 4 = 8#4 ∧
    (0xDFFF : Word).extractLsb' 12 4 = 13#4 ∧ (0xBFFF : Word).extractLsb' 12 4 = 11#4 := by decide

/-- A record to stand in a latch. -/
def someRecord : FaultRecord := ⟨.unrecognizedOpcode, 0x3001, 0xB000⟩

theorem witness_UnrecognizedOpcodeEntry :
    State.reset.fault = none ∧ ({ State.reset with fault := some someRecord } : State).fault = some someRecord := by
  decide
theorem witness_FaultedStepCommitsNothing : Accepting (running 0x3000 0xB000 [] 0 []) ∧
    (running 0x3000 0xB000 [] 0 []).fetch.extractLsb' 12 4 = 11#4 := ⟨⟨rfl, rfl⟩, by decide⟩
theorem witness_StepRunsDecodedInstruction : Accepting (running 0xFFFF 0x4800 [] 0 []) ∧
    decodeWord ((running 0xFFFF 0x4800 [] 0 []).memRead (running 0xFFFF 0x4800 [] 0 []).pc) = .jsr 0 :=
  ⟨⟨rfl, rfl⟩, by decide⟩
theorem witness_StepGating : Accepting (running 0x3000 0 [] 0 []) ∧ ¬ Accepting State.reset ∧
    (State.reset.run = false ∧ State.reset.fault = none) ∧
    ({ State.reset with run := true, fault := some someRecord } : State).fault = some someRecord :=
  ⟨⟨rfl, rfl⟩, fun h => absurd h.1 (by decide), ⟨rfl, rfl⟩, rfl⟩
theorem witness_OnlyDataInstructionsWriteFlags :
    (exec (.lea 0 5) State.reset = .next (State.reset.writeRegCC 0 5) ∧ dataProducing (.lea 0 5) = true) ∧
    (exec (.rti 0) State.reset = .next State.reset ∧ dataProducing (.rti 0) = false) := ⟨⟨rfl, rfl⟩, rfl, rfl⟩
theorem witness_RegisterWritesFollowTable :
    exec (.lea 0 5) State.reset = .next (State.reset.writeRegCC 0 5) ∧ gprWritten (.lea 0 5) ≠ some 1 :=
  ⟨rfl, by decide⟩
theorem witness_UnreadRegistersDoNotMatter : (7 : RegNum) ∉ gprsRead (.jsrr 0 7 0) ∧ (1 : RegNum) ∉ gprsRead (.str 0 2 0) := by
  decide
theorem witness_MemoryChangesOnlyByStores :
    (exec (.st 0 5) State.reset = .next (State.reset.memWrite 5 0) ∧ storeAddress (.st 0 5) State.reset = some 5) ∧
    (exec (.trap 0) State.reset = .next State.reset ∧ storeAddress (.trap 0) State.reset = none) :=
  ⟨⟨rfl, rfl⟩, rfl, rfl⟩
theorem witness_ControlStateOutOfReach : (Instr.br 0 0).WellFormed := by decide
theorem witness_OnlyOp11RaisesAFault :
    (Instr.trap 0).WellFormed ∧ ¬ (Instr.op11 0).WellFormed ∧ State.reset.fault = none := by decide
theorem witness_NeverWrittenMemoryIsNoOps : Accepting { State.reset with run := true } ∧
    ∀ a : Word, ({ State.reset with run := true } : State).memRead a = 0 := ⟨⟨rfl, rfl⟩, fun _ => rfl⟩
theorem witness_StoreSeenByNextFetch :
    (Accepting (running 0x3000 0x3600 [(3, 0x1261)] 0 []) ∧
      decodeWord (running 0x3000 0x3600 [(3, 0x1261)] 0 []).fetch = .st 3 0 ∧
      eaPc9 (running 0x3000 0x3600 [(3, 0x1261)] 0 []).advancePc 0 = 0x3001) ∧
    (Accepting (running 0x3000 0x7680 [(3, 0x1261), (2, 0x3001)] 0 []) ∧
      decodeWord (running 0x3000 0x7680 [(3, 0x1261), (2, 0x3001)] 0 []).fetch = .str 3 2 0 ∧
      eaBase6 (running 0x3000 0x7680 [(3, 0x1261), (2, 0x3001)] 0 []).advancePc 2 0 = 0x3001) :=
  ⟨⟨⟨rfl, rfl⟩, by decide, by decide⟩, ⟨rfl, rfl⟩, by decide, by decide⟩
theorem witness_StepKeepsGood : Good { State.reset with run := true } ∧
    step { State.reset with run := true } = .next { State.reset with run := true, pc := 1 } :=
  ⟨⟨Memory.wf_nil, .inl rfl⟩, rfl⟩
theorem witness_OneFlagOnceSet :
    (dataProducing (.lea 0 5) = true ∧ exec (.lea 0 5) State.reset = .next (State.reset.writeRegCC 0 5)) ∧
    (OneFlag ({ State.reset with run := true, cond := 0b010 } : State).cond ∧
      step { State.reset with run := true, cond := 0b010 } = .next { State.reset with run := true, cond := 0b010, pc := 1 }) :=
  ⟨⟨rfl, rfl⟩, .inr (.inl rfl), rfl⟩

/-- A hook for the witnesses: vector 0x25 clears `run`, vector 0x26 raises a fault, every other changes nothing. -/
def haltHook : TrapHook := fun s ir =>
  if ir = 0xF025 then .ok { s with run := false } else if ir = 0xF026 then .error .unrecognizedOpcode else .ok s

theorem haltHook_keeps {s s' : State} {ir : Word} (h : haltHook s ir = .ok s') : s'.cond = s.cond ∧ s'.mem = s.mem ∧
    s'.fault = s.fault := by
  unfold haltHook at h
  split at h
  · cases h; exact ⟨rfl, rfl, rfl⟩
  · split at h <;> cases h
    exact ⟨rfl, rfl, rfl⟩

theorem haltHook_lawful : haltHook.Lawful where
  keepsCond := by
    intro s ir s' hc h
    have hk := (haltHook_keeps h).1
    rcases hc with hc | hc
    · exact .inr ⟨hc, hk.trans hc⟩
    · exact .inl (hk ▸ hc)
  keepsFault := fun _ _ _ h => (haltHook_keeps h).2.2
  keepsMemory := by
    intro s ir s' h hw
    exact (haltHook_keeps h).2.1 ▸ hw

/-- A platform with a hook. -/
def hooked : Platform := { trapHook := some haltHook }

theorem hooked_lawful : hooked.Lawful := by
  intro h hh
  cases hh
  exact haltHook_lawful

theorem witness_TransactionsKeepGood : hooked.Lawful ∧ Platform.default.Lawful ∧ Good State.reset :=
  ⟨hooked_lawful, fun _ h => (nomatch h), Memory.wf_nil, .inl rfl⟩
theorem witness_ReachableStatesAreGood : hooked.Lawful := hooked_lawful
theorem witness_FaultLatchSticky :
    ({ State.reset with fault := some someRecord } : State).fault = some someRecord ∧ Transaction.start ≠ .reset := by
  decide
theorem witness_RunFlagChangesByStartAndReset : Platform.default.trapHook = none ∧
    (({ State.reset with run := true } : State).run = true ∧ Transaction.start ≠ .reset) ∧
    (State.reset.run = false ∧ Transaction.reset ≠ .start) := ⟨rfl, ⟨rfl, by decide⟩, rfl, by decide⟩
theorem witness_StartTransaction : (State.reset.run = false ∧ State.reset.fault = none) ∧
    (({ State.reset with run := true } : State).run = true ∨ State.reset.fault ≠ none) := ⟨⟨rfl, rfl⟩, .inl rfl⟩
theorem witness_RegisterPort : 7 < 8 ∧ 8 ≤ 8 ∧ 8 ≤ 65543 ∧ State.reset.fault = none := by decide
theorem witness_TrapHookInsideStep :
    hooked.trapHook = some haltHook ∧
    (Accepting (running 0x3000 0xF025 [] 0 []) ∧ (running 0x3000 0xF025 [] 0 []).fetch.extractLsb' 12 4 = 15#4 ∧
      haltHook (running 0x3000 0xF025 [] 0 []).advancePc (running 0x3000 0xF025 [] 0 []).fetch =
        .ok { (running 0x3000 0xF025 [] 0 []).advancePc with run := false }) ∧
    (Accepting (running 0x3000 0xF026 [] 0 []) ∧ (running 0x3000 0xF026 [] 0 []).fetch.extractLsb' 12 4 = 15#4 ∧
      haltHook (running 0x3000 0xF026 [] 0 []).advancePc (running 0x3000 0xF026 [] 0 []).fetch =
        .error .unrecognizedOpcode) :=
  ⟨rfl, ⟨⟨rfl, rfl⟩, by decide, rfl⟩, ⟨rfl, rfl⟩, by decide, rfl⟩
theorem witness_DefaultPlatformIsTheMachine : hooked.opc12Mode = .linkJump ∧
    (running 0x3000 0xC180 [] 0 []).fetch.extractLsb' 12 4 ≠ 15#4 := ⟨rfl, by decide⟩
/-- Both forms of opcode 12. -/
theorem witness_OpcodeTwelveUnimplemented :
    ({ opc12Mode := .unimplemented } : Platform).opc12Mode = .unimplemented ∧
    (Accepting (running 0x3000 0xC1C0 [] 0 []) ∧ (running 0x3000 0xC1C0 [] 0 []).fetch.extractLsb' 12 4 = 12#4) ∧
    (Accepting (running 0x3000 0xC810 [] 0 []) ∧ (running 0x3000 0xC810 [] 0 []).fetch.extractLsb' 12 4 = 12#4) :=
  ⟨rfl, ⟨⟨rfl, rfl⟩, by decide⟩, ⟨rfl, rfl⟩, by decide⟩
/-- A fault of each kind of writer: OP11, a hook, opcode 12 without a handler, a host port. -/
theorem witness_FaultLatchWriters : hooked.Lawful ∧ ({ opc12Mode := .unimplemented } : Platform).Lawful ∧
    (transact hooked .step (running 0x3000 0xBFFF [] 0 [])).2.fault ≠ (running 0x3000 0xBFFF [] 0 []).fault ∧
    (transact hooked .step (running 0x3000 0xF026 [] 0 [])).2.fault ≠ (running 0x3000 0xF026 [] 0 []).fault ∧
    (transact { opc12Mode := .unimplemented } .step (running 0x3000 0xC800 [] 0 [])).2.fault ≠
      (running 0x3000 0xC800 [] 0 []).fault ∧
    (transact hooked (.regReadAddr 8) State.reset).2.fault ≠ State.reset.fault ∧ Transaction.step ≠ .reset ∧
    Transaction.regReadAddr 8 ≠ .reset :=
  ⟨hooked_lawful, fun _ h => (nomatch h), by decide, by decide, by decide, by decide, by decide, by decide⟩
theorem witness_RunEndsAtFault : (runSteps .default 1 (running 0x3000 0xB000 [] 0 [])).fault ≠ none := by decide

end Sys2Proof.Machine.Tests
end

section
/-! The flags (10_state.md R28 to R31): the flag function case by case and in the signed view, and which instructions set
`cond`. -/

namespace Sys2Proof.Machine

/-! ### The flag function (R30) -/

/-- Bit 15 of a Word is its sign (R7, R9). -/
theorem signBit_iff_toInt_neg (v : Word) : v.getLsbD 15 = true ↔ v.toInt < 0 := by
  rw [← BitVec.msb_eq_getLsbD_last, BitVec.msb_eq_toInt, decide_eq_true_iff]

theorem signBit_clear_ne_zero_iff_toInt_pos (v : Word) : v.getLsbD 15 = false ∧ v ≠ 0 ↔ 0 < v.toInt := by
  have hneg : v.getLsbD 15 = false ↔ ¬ v.toInt < 0 := by
    rw [← signBit_iff_toInt_neg, Bool.not_eq_true]
  have hzero : v ≠ 0 ↔ v.toInt ≠ 0 := by
    rw [← BitVec.toInt_zero (w := 16), Ne, Ne, BitVec.toInt_inj]; rfl
  rw [hneg, hzero]
  omega

theorem setcc_eq_neg_iff (v : Word) : setcc v = 0b100 ↔ v.getLsbD 15 = true := by
  obtain ⟨hn, hc⟩ | ⟨rfl, hc⟩ | ⟨hn, -, hc⟩ := setcc_cases v
  · rw [hc, hn]; decide
  · rw [hc]; decide
  · rw [hc, hn]; decide

theorem setcc_eq_zero_iff (v : Word) : setcc v = 0b010 ↔ v = 0 := by
  obtain ⟨hn, hc⟩ | ⟨rfl, hc⟩ | ⟨-, hz, hc⟩ := setcc_cases v
  · have hz : v ≠ 0 := by rintro rfl; exact absurd hn (by decide)
    rw [hc]; exact iff_of_false (by decide) hz
  · rw [hc]; decide
  · rw [hc]; exact iff_of_false (by decide) hz

theorem setcc_eq_pos_iff (v : Word) : setcc v = 0b001 ↔ v.getLsbD 15 = false ∧ v ≠ 0 := by
  obtain ⟨hn, hc⟩ | ⟨rfl, hc⟩ | ⟨hn, hz, hc⟩ := setcc_cases v
  · rw [hc, hn]; exact iff_of_false (by decide) (fun h => nomatch h.1)
  · rw [hc]; decide
  · rw [hc]; exact iff_of_true rfl ⟨hn, hz⟩

/-- Settles O7: the three cases of the flag function, each read through the sign bit and through the signed value, and the
frame of the flagged write. -/
theorem flagFunctionAndFlaggedWrite : Obligations.FlagFunctionAndFlaggedWrite := by
  intro k v s
  exact ⟨(setcc_eq_neg_iff v).2, fun _ hz => (setcc_eq_zero_iff v).2 hz, fun hn hz => (setcc_eq_pos_iff v).2 ⟨hn, hz⟩,
    (setcc_eq_neg_iff v).trans (signBit_iff_toInt_neg v), setcc_eq_zero_iff v,
    (setcc_eq_pos_iff v).trans (signBit_clear_ne_zero_iff_toInt_pos v), writeRegCC_flaggedWriteOnly s k v⟩

/-! ### Which instructions set `cond` (R31) -/

/-- A data-producing instruction does one flagged write of its destination and nothing else (R31). -/
theorem exec_of_dataProducing {i : Instr} (s : State) (h : dataProducing i = true) :
    ∃ d v, gprWritten i = some d ∧ exec i s = .next (s.writeRegCC d v) :=
  match i, h with
  | .add dr sr1 ign sr2, _ => ⟨dr, _, rfl, exec_add s dr sr1 ign sr2⟩
  | .addImm dr sr1 imm, _ => ⟨dr, _, rfl, exec_addImm s dr sr1 imm⟩
  | .and dr sr1 ign sr2, _ => ⟨dr, _, rfl, exec_and s dr sr1 ign sr2⟩
  | .andImm dr sr1 imm, _ => ⟨dr, _, rfl, exec_andImm s dr sr1 imm⟩
  | .not dr sr ign, _ => ⟨dr, _, rfl, exec_not s dr sr ign⟩
  | .ld dr off, _ => ⟨dr, _, rfl, exec_ld s dr off⟩
  | .ldi dr off, _ => ⟨dr, _, rfl, exec_ldi s dr off⟩
  | .ldr dr baseR off, _ => ⟨dr, _, rfl, exec_ldr s dr baseR off⟩
  | .lea dr off, _ => ⟨dr, _, rfl, exec_lea s dr off⟩

/-- Every other instruction completes with the flags it found: a plain write, a store, a no-op, or OP11's fault (R31). -/
theorem exec_of_not_dataProducing {i : Instr} (s : State) (h : dataProducing i = false) :
    ∃ t, exec i s = .next t ∧ t.cond = s.cond :=
  match i, h with
  | .br nzp off, _ => ⟨_, exec_br s nzp off, by split <;> rfl⟩
  | .jsr off, _ => ⟨_, exec_jsr s off, rfl⟩
  | .jsrr ignHi baseR ignLo, _ => ⟨_, exec_jsrr s ignHi baseR ignLo, rfl⟩
  | .jmp ignHi baseR ignLo, _ => ⟨_, exec_jmp s ignHi baseR ignLo, rfl⟩
  | .jmppc off, _ => ⟨_, exec_jmppc s off, rfl⟩
  | .st sr off, _ => ⟨_, exec_st s sr off, rfl⟩
  | .str sr baseR off, _ => ⟨_, exec_str s sr baseR off, rfl⟩
  | .trap low, _ => ⟨_, exec_trap s low, rfl⟩
  | .rti low, _ => ⟨_, exec_rti s low, rfl⟩
  | .res low, _ => ⟨_, exec_res s low, rfl⟩
  | .op11 low, _ => ⟨_, exec_op11 s low, rfl⟩

theorem exec_dataProducing_cond {i : Instr} {s t : State} (h : dataProducing i = true) (hx : exec i s = .next t) :
    ∃ d, gprWritten i = some d ∧ t.cond = setcc (t.readReg d) := by
  obtain ⟨d, v, hd, hw⟩ := exec_of_dataProducing s h
  obtain rfl : s.writeRegCC d v = t := Host.Outcome.next.inj (hw.symm.trans hx)
  exact ⟨d, hd, by simp⟩

theorem exec_keeps_cond {i : Instr} {s t : State} (h : dataProducing i = false) (hx : exec i s = .next t) :
    t.cond = s.cond := by
  obtain ⟨t', ht', hc⟩ := exec_of_not_dataProducing s h
  obtain rfl : t' = t := Host.Outcome.next.inj (ht'.symm.trans hx)
  exact hc

/-- Settles O33: the split by `dataProducing`, and the flags after the plain writes of the link and of `pc`. -/
theorem onlyDataInstructionsWriteFlags : Obligations.OnlyDataInstructionsWriteFlags :=
  ⟨fun _ _ _ hx => ⟨fun h => exec_dataProducing_cond h hx, fun h => exec_keeps_cond h hx⟩,
    fun s x => ⟨s.link_cond, s.setPc_cond x, s.advancePc_cond⟩⟩

end Sys2Proof.Machine
end

section
/-! The memory (20_memory.md R50 to R53) and its loader port (R65), at addresses of any size taken modulo 65,536. -/

namespace Sys2Proof.Machine

/-! ### Addresses of any size (R50, R51) -/

/-- Two numbers name the same cell exactly when they agree modulo 65,536. -/
theorem ofNat_eq_iff_mod (a b : Nat) : (BitVec.ofNat 16 b : Word) = BitVec.ofNat 16 a ↔ b % 65536 = a % 65536 := by
  rw [← BitVec.toNat_inj, BitVec.toNat_ofNat, BitVec.toNat_ofNat]

/-- An address may be reduced modulo 65,536 before it is used. -/
theorem ofNat_mod (a : Nat) : (BitVec.ofNat 16 (a % 65536) : Word) = BitVec.ofNat 16 a :=
  (ofNat_eq_iff_mod a (a % 65536)).2 (Nat.mod_mod a 65536)

/-! ### Reads and fetches after a write (R52, R53, R63) -/

/-- The fetch from a cell just written is the Word written there: fetches read the memory itself (R63). -/
theorem fetch_setPc_memWrite (s : State) (a v : Word) : ((s.memWrite a v).setPc a).fetch = v :=
  s.memRead_memWrite_self a v

/-- Settles O10: the law of a read after a write, with the cells named by numbers modulo 65,536, the fetch from the written
cell, and the frame of the write. -/
theorem memoryReadAndWrite : Obligations.MemoryReadAndWrite := by
  intro s a b v
  refine ⟨?_, fetch_setPc_memWrite s _ v, memWrite_storeOnly s _ v⟩
  simp only [State.memRead_memWrite, ofNat_eq_iff_mod]

/-! ### The loader port (R65) -/

theorem transact_loaderWrite (p : Platform) (s : State) (a : Nat) (w : Word) :
    transact p (.loaderWrite a w) s = (.done, s.memWrite (BitVec.ofNat 16 a) w) := rfl

theorem transact_loaderRead (p : Platform) (s : State) (a : Nat) :
    transact p (.loaderRead a) s = (.word (s.memRead (BitVec.ofNat 16 a)), s) := rfl

/-- Settles O50: the port's write is `memWrite` and so keeps its frame, and the port's read is `memRead`, which finds the
Word just written. -/
theorem loaderPort : Obligations.LoaderPort := by
  intro p s a w
  rw [ofNat_mod]
  refine ⟨⟨_, transact_loaderWrite p s a w, memWrite_storeOnly s _ w, ?_⟩, transact_loaderRead p s a⟩
  rw [transact_loaderRead, State.memRead_memWrite_self]

end Sys2Proof.Machine
end

section
/-! The sign-extension unit (40_step_cycle.md R124, R125), for every field width. -/

namespace Sys2Proof.Machine

/-- The formula of R124: a field whose sign bit is set gains every bit from `n` up to 15. -/
theorem sext_toNat {n : Nat} (v : BitVec n) (hn : n ≤ 16) :
    (sext v).toNat = if v.getLsbD (n - 1) then v.toNat + (65536 - 2 ^ n) else v.toNat := by
  have hfits : (v.setWidth 16).toNat = v.toNat := BitVec.toNat_setWidth_of_le hn
  rw [sext, BitVec.toNat_signExtend, hfits, BitVec.msb_eq_getLsbD_last]
  cases v.getLsbD (n - 1) <;> rfl

theorem sext_getLsbD_field {n i : Nat} (v : BitVec n) (hi : i < n) (hi16 : i < 16) :
    (sext v).getLsbD i = v.getLsbD i := by
  rw [sext, BitVec.getLsbD_signExtend, decide_eq_true hi16, if_pos hi, Bool.true_and]

theorem sext_getLsbD_above {n i : Nat} (v : BitVec n) (hi : n ≤ i) (hi16 : i < 16) :
    (sext v).getLsbD i = v.getLsbD (n - 1) := by
  rw [sext, BitVec.getLsbD_signExtend, decide_eq_true hi16, if_neg (Nat.not_lt.2 hi), Bool.true_and,
    BitVec.msb_eq_getLsbD_last]

/-- The Word has the signed value of the field: `v` below half of the field's range, and `v - 2 ^ n` from there on. -/
theorem sext_toInt {n : Nat} (v : BitVec n) (hpos : 1 ≤ n) (hn : n ≤ 16) :
    (sext v).toInt = if v.toNat < 2 ^ (n - 1) then (v.toNat : Int) else (v.toNat : Int) - 2 ^ n := by
  have hhalf : 2 * v.toNat < 2 ^ n ↔ v.toNat < 2 ^ (n - 1) := by
    rw [← Nat.two_pow_pred_mul_two hpos, Nat.mul_comm, Nat.mul_lt_mul_right two_pos]
  rw [sext, BitVec.toInt_signExtend_of_le hn, BitVec.toInt_eq_toNat_cond, Nat.cast_pow, Nat.cast_ofNat]
  simp only [hhalf]

theorem sext_setWidth {n : Nat} (v : BitVec n) (hn : n ≤ 16) : (sext v).setWidth n = v := by
  refine BitVec.eq_of_getLsbD_eq fun i hi => ?_
  rw [BitVec.getLsbD_setWidth, decide_eq_true hi, Bool.true_and, sext_getLsbD_field v hi (hi.trans_le hn)]

/-- Settles O8: the formula, the bits above the field, the signed value and the kept field, each a law of `sext` that
holds at every width up to 16 (the signed value at every width from 1). -/
theorem signExtensionUnit : Obligations.SignExtensionUnit := fun _ v hpos hn =>
  ⟨sext_toNat v hn, fun _ hi hi16 => sext_getLsbD_above v hi hi16, sext_toInt v hpos hn, sext_setWidth v hn⟩

end Sys2Proof.Machine
end

section
/-! The encoding (30_encoding.md R80 to R96): the fields of a built word, the two round trips between words and
instructions, the opcode map, the encoder functions, and the ignored bits. -/

namespace Sys2Proof

/-! ### The fields in one spelling: every field is a slice of the word (R83) -/

namespace Field

variable (ir : Word)

@[simp] theorem opcode_eq : opcode ir = ir.extractLsb' 12 4 := rfl
@[simp] theorem reg11_eq : reg11 ir = ir.extractLsb' 9 3 := rfl
@[simp] theorem nzp_eq : nzp ir = ir.extractLsb' 9 3 := rfl
@[simp] theorem mode11_eq : mode11 ir = ir.getLsbD 11 := rfl
@[simp] theorem pcoffset11_eq : pcoffset11 ir = ir.extractLsb' 0 11 := rfl
@[simp] theorem ign10_eq : ign10 ir = ir.extractLsb' 9 2 := rfl
@[simp] theorem reg8_eq : reg8 ir = ir.extractLsb' 6 3 := rfl
@[simp] theorem pcoffset9_eq : pcoffset9 ir = ir.extractLsb' 0 9 := rfl
@[simp] theorem mode5_eq : mode5 ir = ir.getLsbD 5 := rfl
@[simp] theorem low6_eq : low6 ir = ir.extractLsb' 0 6 := rfl
@[simp] theorem imm5_eq : imm5 ir = ir.extractLsb' 0 5 := rfl
@[simp] theorem ign4_eq : ign4 ir = ir.extractLsb' 3 2 := rfl
@[simp] theorem sr2_eq : sr2 ir = ir.extractLsb' 0 3 := rfl
@[simp] theorem low12_eq : low12 ir = ir.extractLsb' 0 12 := rfl

end Field

/-! ### The decoder at the four opcodes with a mode bit, one law a form (R86, R87) -/

section ModeForms

variable {w : Word}

theorem decodeWord_add_register (h : w.extractLsb' 12 4 = 1#4) (hm : w.getLsbD 5 = false) : decodeWord w =
    .add (w.extractLsb' 9 3) (w.extractLsb' 6 3) (w.extractLsb' 3 2) (w.extractLsb' 0 3) :=
  (decodeWord_add h).trans (if_neg (ne_true_of_eq_false hm))

theorem decodeWord_add_immediate (h : w.extractLsb' 12 4 = 1#4) (hm : w.getLsbD 5 = true) : decodeWord w =
    .addImm (w.extractLsb' 9 3) (w.extractLsb' 6 3) (w.extractLsb' 0 5) :=
  (decodeWord_add h).trans (if_pos hm)

theorem decodeWord_and_register (h : w.extractLsb' 12 4 = 5#4) (hm : w.getLsbD 5 = false) : decodeWord w =
    .and (w.extractLsb' 9 3) (w.extractLsb' 6 3) (w.extractLsb' 3 2) (w.extractLsb' 0 3) :=
  (decodeWord_and h).trans (if_neg (ne_true_of_eq_false hm))

theorem decodeWord_and_immediate (h : w.extractLsb' 12 4 = 5#4) (hm : w.getLsbD 5 = true) : decodeWord w =
    .andImm (w.extractLsb' 9 3) (w.extractLsb' 6 3) (w.extractLsb' 0 5) :=
  (decodeWord_and h).trans (if_pos hm)

theorem decodeWord_jsr_relative (h : w.extractLsb' 12 4 = 4#4) (hm : w.getLsbD 11 = true) : decodeWord w =
    .jsr (w.extractLsb' 0 11) :=
  (decodeWord_jsr h).trans (if_pos hm)

theorem decodeWord_jsr_register (h : w.extractLsb' 12 4 = 4#4) (hm : w.getLsbD 11 = false) : decodeWord w =
    .jsrr (w.extractLsb' 9 2) (w.extractLsb' 6 3) (w.extractLsb' 0 6) :=
  (decodeWord_jsr h).trans (if_neg (ne_true_of_eq_false hm))

theorem decodeWord_jmp_relative (h : w.extractLsb' 12 4 = 12#4) (hm : w.getLsbD 11 = true) : decodeWord w =
    .jmppc (w.extractLsb' 0 11) :=
  (decodeWord_jmp h).trans (if_pos hm)

theorem decodeWord_jmp_register (h : w.extractLsb' 12 4 = 12#4) (hm : w.getLsbD 11 = false) : decodeWord w =
    .jmp (w.extractLsb' 9 2) (w.extractLsb' 6 3) (w.extractLsb' 0 6) :=
  (decodeWord_jmp h).trans (if_neg (ne_true_of_eq_false hm))

end ModeForms

/-! ### Decode after encode: a slice of a word built from fields (R8, R83) -/

@[simp] theorem getElem_putField {n : Nat} (lo : Nat) (v : BitVec n) (i : Nat) (hi : i < 16) :
    (putField lo v)[i] = (decide (lo ≤ i) && v.getLsbD (i - lo)) := by
  rw [← BitVec.getLsbD_eq_getElem, getLsbD_putField, decide_eq_true hi, Bool.true_and]

/-- A field read back from its own place is the field. -/
@[simp] theorem extractLsb'_putField_same {n : Nat} (lo : Nat) (v : BitVec n) (h : lo + n ≤ 16) :
    (putField lo v).extractLsb' lo n = v := by
  refine BitVec.eq_of_getLsbD_eq fun i hi => ?_
  have hi16 : lo + i < 16 := by omega
  rw [BitVec.getLsbD_extractLsb', getLsbD_putField]
  simp only [hi, hi16, Nat.le_add_right, Nat.add_sub_cancel_left, decide_true, Bool.true_and]

/-- A field contributes nothing to a slice that lies apart from it. -/
@[simp] theorem extractLsb'_putField_apart {n : Nat} (lo lo' n' : Nat) (v : BitVec n)
    (h : lo + n ≤ lo' ∨ lo' + n' ≤ lo) : (putField lo v).extractLsb' lo' n' = 0#n' := by
  refine BitVec.eq_of_getLsbD_eq fun i hi => ?_
  rw [BitVec.getLsbD_extractLsb', getLsbD_putField]
  obtain h | h := h
  · have hpast : n ≤ lo' + i - lo := by omega
    simp [BitVec.getLsbD_of_ge v _ hpast]
  · have hbefore : ¬ lo ≤ lo' + i := by omega
    simp [hbefore]

/-- The opcode of an instruction's row (R86; decision D1). -/
def Instr.opcode : Instr → BitVec 4
  | .br _ _ => Op.br
  | .add _ _ _ _ | .addImm _ _ _ => Op.add
  | .ld _ _ => Op.ld
  | .st _ _ => Op.st
  | .jsr _ | .jsrr _ _ _ => Op.jsr
  | .and _ _ _ _ | .andImm _ _ _ => Op.and
  | .ldr _ _ _ => Op.ldr
  | .str _ _ _ => Op.str
  | .rti _ => Op.rti
  | .not _ _ _ => Op.not
  | .ldi _ _ => Op.ldi
  | .op11 _ => Op.op11
  | .jmp _ _ _ | .jmppc _ => Op.jmp
  | .res _ => Op.res
  | .lea _ _ => Op.lea
  | .trap _ => Op.trap

theorem opcode_encode (i : Instr) : (encode i).extractLsb' 12 4 = i.opcode := by
  cases i <;> simp [encode, Instr.opcode, BitVec.extractLsb'_or]

/-- The opcode, and the mode bit where there is one, select the instruction's own form, and each of the form's slices is
the field put there. -/
theorem decodeWord_encode (i : Instr) : decodeWord (encode i) = i := by
  have hop := opcode_encode i
  cases i with
  | br nzp off =>
    rw [decodeWord_br hop]
    simp [encode, BitVec.extractLsb'_or]
  | add dr sr1 ign sr2 =>
    rw [decodeWord_add_register hop (by simp [encode])]
    simp [encode, BitVec.extractLsb'_or]
  | addImm dr sr1 imm =>
    rw [decodeWord_add_immediate hop (by simp [encode])]
    simp [encode, BitVec.extractLsb'_or]
  | ld dr off =>
    rw [decodeWord_ld hop]
    simp [encode, BitVec.extractLsb'_or]
  | st sr off =>
    rw [decodeWord_st hop]
    simp [encode, BitVec.extractLsb'_or]
  | jsr off =>
    rw [decodeWord_jsr_relative hop (by simp [encode])]
    simp [encode, BitVec.extractLsb'_or]
  | jsrr ignHi baseR ignLo =>
    rw [decodeWord_jsr_register hop (by simp [encode])]
    simp [encode, BitVec.extractLsb'_or]
  | and dr sr1 ign sr2 =>
    rw [decodeWord_and_register hop (by simp [encode])]
    simp [encode, BitVec.extractLsb'_or]
  | andImm dr sr1 imm =>
    rw [decodeWord_and_immediate hop (by simp [encode])]
    simp [encode, BitVec.extractLsb'_or]
  | ldr dr baseR off =>
    rw [decodeWord_ldr hop]
    simp [encode, BitVec.extractLsb'_or]
  | str sr baseR off =>
    rw [decodeWord_str hop]
    simp [encode, BitVec.extractLsb'_or]
  | rti low =>
    rw [decodeWord_rti hop]
    simp [encode, BitVec.extractLsb'_or]
  | not dr sr ign =>
    rw [decodeWord_not hop]
    simp [encode, BitVec.extractLsb'_or]
  | ldi dr off =>
    rw [decodeWord_ldi hop]
    simp [encode, BitVec.extractLsb'_or]
  | op11 low =>
    rw [decodeWord_op11 hop]
    simp [encode, BitVec.extractLsb'_or]
  | jmp ignHi baseR ignLo =>
    rw [decodeWord_jmp_register hop (by simp [encode])]
    simp [encode, BitVec.extractLsb'_or]
  | jmppc off =>
    rw [decodeWord_jmp_relative hop (by simp [encode])]
    simp [encode, BitVec.extractLsb'_or]
  | res low =>
    rw [decodeWord_res hop]
    simp [encode, BitVec.extractLsb'_or]
  | lea dr off =>
    rw [decodeWord_lea hop]
    simp [encode, BitVec.extractLsb'_or]
  | trap low =>
    rw [decodeWord_trap hop]
    simp [encode, BitVec.extractLsb'_or]

/-! ### Encode after decode: the slices of a word, put back in their places -/

/-- The bits `lo` to `lo + n - 1` of a word, in their places, the others 0. -/
def slice (w : Word) (lo n : Nat) : Word := putField lo (w.extractLsb' lo n)

theorem putField_extractLsb' (w : Word) (lo n : Nat) : putField lo (w.extractLsb' lo n) = slice w lo n := rfl

theorem getLsbD_slice (w : Word) (lo n i : Nat) :
    (slice w lo n).getLsbD i = (decide (lo ≤ i) && decide (i < lo + n) && w.getLsbD i) := by
  rw [slice, getLsbD_putField, BitVec.getLsbD_extractLsb']
  by_cases hi : i < 16
  · by_cases hlo : lo ≤ i
    · have hwidth : i - lo < n ↔ i < lo + n := by omega
      simp [hi, hlo, hwidth, Nat.add_sub_cancel' hlo]
    · simp [hlo]
  · simp [hi, BitVec.getLsbD_of_ge w i (Nat.le_of_not_lt hi)]

/-- Two adjacent slices together are one. -/
theorem slice_or_slice (w : Word) {hi lo n m : Nat} (h : hi = lo + n) :
    slice w hi m ||| slice w lo n = slice w lo (n + m) := by
  refine BitVec.eq_of_getLsbD_eq fun i _ => ?_
  simp only [BitVec.getLsbD_or, getLsbD_slice]
  cases w.getLsbD i
  · simp
  · simp only [Bool.and_true, ← Bool.decide_and, ← Bool.decide_or, decide_eq_decide]
    omega

theorem slice_whole (w : Word) : slice w 0 16 = w := by
  refine BitVec.eq_of_getLsbD_eq fun i hi => ?_
  rw [getLsbD_slice, decide_eq_true (Nat.zero_le i), decide_eq_true hi, Bool.true_and, Bool.true_and]

/-- A fixed field that a word has is its slice of that word. -/
theorem putField_eq_slice {w : Word} {lo n : Nat} {v : BitVec n} (h : w.extractLsb' lo n = v) :
    putField lo v = slice w lo n := by
  rw [← h, putField_extractLsb']

theorem extractLsb'_one_eq_ofBool (w : Word) (i : Nat) : w.extractLsb' i 1 = BitVec.ofBool (w.getLsbD i) := by
  refine BitVec.eq_of_getLsbD_eq fun j hj => ?_
  obtain rfl : j = 0 := by omega
  simp

theorem putField_clear_eq_slice {w : Word} {i : Nat} (h : w.getLsbD i = false) : putField i 0#1 = slice w i 1 :=
  putField_eq_slice ((extractLsb'_one_eq_ofBool w i).trans (congrArg BitVec.ofBool h))

theorem putField_set_eq_slice {w : Word} {i : Nat} (h : w.getLsbD i = true) : putField i 1#1 = slice w i 1 :=
  putField_eq_slice ((extractLsb'_one_eq_ofBool w i).trans (congrArg BitVec.ofBool h))

/-- Opcode by opcode and mode by mode: the decoded term holds the slices of the word, the opcode and the mode bit are
slices of it too, and adjacent slices join to the whole word. -/
theorem encode_decodeWord (w : Word) : encode (decodeWord w) = w := by
  obtain h | h | h | h | h | h | h | h | h | h | h | h | h | h | h | h := opcode_cases (Field.opcode w)
  · rw [decodeWord_br h, encode, putField_eq_slice h]
    simp [putField_extractLsb', slice_or_slice, slice_whole]
  · cases hm : w.getLsbD 5 with
    | false =>
      rw [decodeWord_add_register h hm, encode, putField_eq_slice h, putField_clear_eq_slice hm]
      simp [putField_extractLsb', slice_or_slice, slice_whole]
    | true =>
      rw [decodeWord_add_immediate h hm, encode, putField_eq_slice h, putField_set_eq_slice hm]
      simp [putField_extractLsb', slice_or_slice, slice_whole]
  · rw [decodeWord_ld h, encode, putField_eq_slice h]
    simp [putField_extractLsb', slice_or_slice, slice_whole]
  · rw [decodeWord_st h, encode, putField_eq_slice h]
    simp [putField_extractLsb', slice_or_slice, slice_whole]
  · cases hm : w.getLsbD 11 with
    | false =>
      rw [decodeWord_jsr_register h hm, encode, putField_eq_slice h, putField_clear_eq_slice hm]
      simp [putField_extractLsb', slice_or_slice, slice_whole]
    | true =>
      rw [decodeWord_jsr_relative h hm, encode, putField_eq_slice h, putField_set_eq_slice hm]
      simp [putField_extractLsb', slice_or_slice, slice_whole]
  · cases hm : w.getLsbD 5 with
    | false =>
      rw [decodeWord_and_register h hm, encode, putField_eq_slice h, putField_clear_eq_slice hm]
      simp [putField_extractLsb', slice_or_slice, slice_whole]
    | true =>
      rw [decodeWord_and_immediate h hm, encode, putField_eq_slice h, putField_set_eq_slice hm]
      simp [putField_extractLsb', slice_or_slice, slice_whole]
  · rw [decodeWord_ldr h, encode, putField_eq_slice h]
    simp [putField_extractLsb', slice_or_slice, slice_whole]
  · rw [decodeWord_str h, encode, putField_eq_slice h]
    simp [putField_extractLsb', slice_or_slice, slice_whole]
  · rw [decodeWord_rti h, encode, putField_eq_slice h]
    simp [putField_extractLsb', slice_or_slice, slice_whole]
  · rw [decodeWord_not h, encode, putField_eq_slice h]
    simp [putField_extractLsb', slice_or_slice, slice_whole]
  · rw [decodeWord_ldi h, encode, putField_eq_slice h]
    simp [putField_extractLsb', slice_or_slice, slice_whole]
  · rw [decodeWord_op11 h, encode, putField_eq_slice h]
    simp [putField_extractLsb', slice_or_slice, slice_whole]
  · cases hm : w.getLsbD 11 with
    | false =>
      rw [decodeWord_jmp_register h hm, encode, putField_eq_slice h, putField_clear_eq_slice hm]
      simp [putField_extractLsb', slice_or_slice, slice_whole]
    | true =>
      rw [decodeWord_jmp_relative h hm, encode, putField_eq_slice h, putField_set_eq_slice hm]
      simp [putField_extractLsb', slice_or_slice, slice_whole]
  · rw [decodeWord_res h, encode, putField_eq_slice h]
    simp [putField_extractLsb', slice_or_slice, slice_whole]
  · rw [decodeWord_lea h, encode, putField_eq_slice h]
    simp [putField_extractLsb', slice_or_slice, slice_whole]
  · rw [decodeWord_trap h, encode, putField_eq_slice h]
    simp [putField_extractLsb', slice_or_slice, slice_whole]

/-- A word is that of the instruction it decodes to, and has its opcode. -/
theorem encode_of_decodeWord {w : Word} {i : Instr} (h : decodeWord w = i) : encode i = w := h ▸ encode_decodeWord w

theorem opcode_of_decodeWord {w : Word} {i : Instr} (h : decodeWord w = i) : w.extractLsb' 12 4 = i.opcode := by
  rw [← encode_of_decodeWord h, opcode_encode]

/-- Settles O2: instruction by instruction, every slice of the built word is the field put there. -/
theorem encodeThenDecode : Obligations.EncodeThenDecode := decodeWord_encode

/-- Settles O3: the slices that a decoded term holds join to the whole word. -/
theorem decodeThenEncode : Obligations.DecodeThenEncode := encode_decodeWord

/-! ### The opcode map (R86) -/

/-- Every instruction's word has the fixed bits of the row of its mnemonic. -/
theorem rowWord_statement : ∀ i : Instr, Laws.RowWord.Statement i
  | .br nzp off => Laws.RowWord.br nzp off
  | .add dr sr1 ign sr2 => Laws.RowWord.add dr sr1 ign sr2
  | .addImm dr sr1 imm => Laws.RowWord.addImm dr sr1 imm
  | .ld dr off => Laws.RowWord.ld dr off
  | .st sr off => Laws.RowWord.st sr off
  | .jsr off => Laws.RowWord.jsr off
  | .jsrr ignHi baseR ignLo => Laws.RowWord.jsrr ignHi baseR ignLo
  | .and dr sr1 ign sr2 => Laws.RowWord.and dr sr1 ign sr2
  | .andImm dr sr1 imm => Laws.RowWord.andImm dr sr1 imm
  | .ldr dr baseR off => Laws.RowWord.ldr dr baseR off
  | .str sr baseR off => Laws.RowWord.str sr baseR off
  | .rti low => Laws.RowWord.rti low
  | .not dr sr ign => Laws.RowWord.not dr sr ign
  | .ldi dr off => Laws.RowWord.ldi dr off
  | .op11 low => Laws.RowWord.op11 low
  | .jmp ignHi baseR ignLo => Laws.RowWord.jmp ignHi baseR ignLo
  | .jmppc off => Laws.RowWord.jmppc off
  | .res low => Laws.RowWord.res low
  | .lea dr off => Laws.RowWord.lea dr off
  | .trap low => Laws.RowWord.trap low

/-- Two rows agree on the fixed bits that they share only when they are one row. -/
theorem opcodeRows_apart : ∀ r ∈ opcodeRows, ∀ r' ∈ opcodeRows,
    r.pattern &&& r'.mask = r'.pattern &&& r.mask → r' = r := by decide

theorem row_unique {w : Word} {r r' : OpcodeRow} (hr : r ∈ opcodeRows) (hr' : r' ∈ opcodeRows)
    (hw : w &&& r.mask = r.pattern) (hw' : w &&& r'.mask = r'.pattern) : r' = r := by
  refine opcodeRows_apart r hr r' hr' ?_
  rw [← hw, ← hw', BitVec.and_assoc, BitVec.and_assoc, BitVec.and_comm r.mask]

/-- Settles O1: the row is that of the decoded instruction's own word, which is `w` again, and no other row has the fixed
bits of `w`. -/
theorem opcodeMapSelectsInstruction : Obligations.OpcodeMapSelectsInstruction := by
  intro w
  obtain ⟨r, hr, hname, hfixed⟩ := rowWord_statement (decodeWord w)
  rw [encode_decodeWord] at hfixed
  exact ⟨r, hr, hfixed, hname.symm, fun _ hr' hw' => row_unique hr hr' hfixed hw'⟩

/-! ### The encoder functions (R95, R96) -/

theorem putField_zero (n lo : Nat) : putField lo (0#n) = 0#16 := by
  simp [putField]

namespace Enc

/-! Each encoder function writes the word of one instruction, the arguments cut to their fields, the ignored bits 0. -/

section Words

variable (a b c : Int)

theorem br_eq : Enc.br a b = encode (.br (BitVec.ofInt 3 a) (BitVec.ofInt 9 b)) := rfl
theorem add_eq : Enc.add a b c = encode (.add (BitVec.ofInt 3 a) (BitVec.ofInt 3 b) 0#2 (BitVec.ofInt 3 c)) := by
  rw [encode, putField_zero, putField_zero, BitVec.or_zero, BitVec.or_zero]; rfl
theorem addImm_eq : Enc.addImm a b c = encode (.addImm (BitVec.ofInt 3 a) (BitVec.ofInt 3 b) (BitVec.ofInt 5 c)) := by
  have hfixed : (0x1020 : Word) = putField 12 Op.add ||| putField 5 1#1 := rfl
  simp only [Enc.addImm, Enc.put, encode, hfixed]
  ac_rfl
theorem and_eq : Enc.and a b c = encode (.and (BitVec.ofInt 3 a) (BitVec.ofInt 3 b) 0#2 (BitVec.ofInt 3 c)) := by
  rw [encode, putField_zero, putField_zero, BitVec.or_zero, BitVec.or_zero]; rfl
theorem andImm_eq : Enc.andImm a b c = encode (.andImm (BitVec.ofInt 3 a) (BitVec.ofInt 3 b) (BitVec.ofInt 5 c)) := by
  have hfixed : (0x5020 : Word) = putField 12 Op.and ||| putField 5 1#1 := rfl
  simp only [Enc.andImm, Enc.put, encode, hfixed]
  ac_rfl
theorem not_eq : Enc.not a b = encode (.not (BitVec.ofInt 3 a) (BitVec.ofInt 3 b) 0#6) := by
  rw [encode, putField_zero, BitVec.or_zero]; rfl
theorem jsr_eq : Enc.jsr a = encode (.jsr (BitVec.ofInt 11 a)) := rfl
theorem jsrr_eq : Enc.jsrr a = encode (.jsrr 0#2 (BitVec.ofInt 3 a) 0#6) := by
  simp only [encode, putField_zero, BitVec.or_zero]; rfl
theorem jmp_eq : Enc.jmp a = encode (.jmp 0#2 (BitVec.ofInt 3 a) 0#6) := by
  simp only [encode, putField_zero, BitVec.or_zero]; rfl
theorem jmppc_eq : Enc.jmppc a = encode (.jmppc (BitVec.ofInt 11 a)) := rfl
theorem ld_eq : Enc.ld a b = encode (.ld (BitVec.ofInt 3 a) (BitVec.ofInt 9 b)) := rfl
theorem ldi_eq : Enc.ldi a b = encode (.ldi (BitVec.ofInt 3 a) (BitVec.ofInt 9 b)) := rfl
theorem ldr_eq : Enc.ldr a b c = encode (.ldr (BitVec.ofInt 3 a) (BitVec.ofInt 3 b) (BitVec.ofInt 6 c)) := rfl
theorem lea_eq : Enc.lea a b = encode (.lea (BitVec.ofInt 3 a) (BitVec.ofInt 9 b)) := rfl
theorem st_eq : Enc.st a b = encode (.st (BitVec.ofInt 3 a) (BitVec.ofInt 9 b)) := rfl
theorem str_eq : Enc.str a b c = encode (.str (BitVec.ofInt 3 a) (BitVec.ofInt 3 b) (BitVec.ofInt 6 c)) := rfl
theorem trap_eq : Enc.trap a = encode (.trap ((BitVec.ofInt 8 a).setWidth 12)) := rfl
theorem rti_eq : Enc.rti = encode (.rti 0) := rfl
theorem res_eq : Enc.res = encode (.res 0) := rfl

end Words

end Enc

/-- Settles O4: each encoder function builds the word of its instruction, and the decoder gives that instruction back. -/
theorem encoderRoundTrip : Obligations.EncoderRoundTrip := by
  intro a b c
  rw [Enc.br_eq, Enc.add_eq, Enc.addImm_eq, Enc.and_eq, Enc.andImm_eq, Enc.not_eq, Enc.jsr_eq, Enc.jsrr_eq, Enc.jmp_eq,
    Enc.jmppc_eq, Enc.ld_eq, Enc.ldi_eq, Enc.ldr_eq, Enc.lea_eq, Enc.st_eq, Enc.str_eq, Enc.trap_eq, Enc.rti_eq,
    Enc.res_eq]
  simp [decodeWord_encode]

/-- Settles O6: each word is decoded as it stands. -/
theorem sampleWordsDecode : Obligations.SampleWordsDecode := by
  unfold Obligations.SampleWordsDecode
  decide

/-! ### The ignored bits (R88) -/

section IgnoredBits

variable {w w' mask : Word}

/-- Two words that differ only under a mask have every bit outside it in common. -/
theorem getLsbD_eq_of_differ_under (h : (w ^^^ w') &&& ~~~mask = 0) {i : Nat} (hi : mask.getLsbD i = false) :
    w'.getLsbD i = w.getLsbD i := by
  by_cases h16 : i < 16
  · have hbit := congrArg (fun v : Word => v.getLsbD i) h
    simp only [BitVec.getLsbD_and, BitVec.getLsbD_xor, BitVec.getLsbD_not, hi, h16] at hbit
    revert hbit
    cases w.getLsbD i <;> cases w'.getLsbD i <;> simp
  · rw [BitVec.getLsbD_of_ge w' i (Nat.le_of_not_lt h16), BitVec.getLsbD_of_ge w i (Nat.le_of_not_lt h16)]

theorem extractLsb'_eq_of_differ_under (h : (w ^^^ w') &&& ~~~mask = 0) {lo n : Nat}
    (hfield : mask.extractLsb' lo n = 0#n) : w'.extractLsb' lo n = w.extractLsb' lo n := by
  refine BitVec.eq_of_getLsbD_eq fun i hi => ?_
  have hclear : mask.getLsbD (lo + i) = false := by
    have := congrArg (fun v => v.getLsbD i) hfield
    simpa [BitVec.getLsbD_extractLsb', hi, -BitVec.getLsbD_eq_getElem] using this
  rw [BitVec.getLsbD_extractLsb', BitVec.getLsbD_extractLsb', getLsbD_eq_of_differ_under h hclear]

theorem eq_of_differ_nowhere (h : (w ^^^ w') &&& ~~~(0x0000 : Word) = 0) : w' = w :=
  BitVec.eq_of_getLsbD_eq fun _ _ => getLsbD_eq_of_differ_under h BitVec.getLsbD_zero

/-- A word that differs from that of a legal instruction in ignored bits alone decodes to the same row, with the same
values in every field that is not ignored: the meaning reads no other. -/
theorem same_effect_of_differ_under_ignoredMask (i : Instr) (s : Machine.State) (hlegal : i.WellFormed)
    (h : (encode i ^^^ w') &&& ~~~i.ignoredMask = 0) :
    (decodeWord w').mnemonic = i.mnemonic ∧ Machine.exec (decodeWord w') s = Machine.exec i s := by
  have field {lo n : Nat} := extractLsb'_eq_of_differ_under h (lo := lo) (n := n)
  have bit {j : Nat} := getLsbD_eq_of_differ_under h (i := j)
  cases i with simp only [Instr.ignoredMask] at field bit
  | add dr sr1 ign sr2 =>
    have hmode : w'.getLsbD 5 = false := (bit rfl).trans (by simp [encode])
    have hdecode : decodeWord w' = .add dr sr1 (w'.extractLsb' 3 2) sr2 := by
      rw [decodeWord_add_register _ hmode] <;> simp [field, encode, BitVec.extractLsb'_or]
    rw [hdecode]
    exact ⟨rfl, rfl⟩
  | and dr sr1 ign sr2 =>
    have hmode : w'.getLsbD 5 = false := (bit rfl).trans (by simp [encode])
    have hdecode : decodeWord w' = .and dr sr1 (w'.extractLsb' 3 2) sr2 := by
      rw [decodeWord_and_register _ hmode] <;> simp [field, encode, BitVec.extractLsb'_or]
    rw [hdecode]
    exact ⟨rfl, rfl⟩
  | not dr sr ign =>
    have hdecode : decodeWord w' = .not dr sr (w'.extractLsb' 0 6) := by
      rw [decodeWord_not] <;> simp [field, encode, BitVec.extractLsb'_or]
    rw [hdecode]
    exact ⟨rfl, rfl⟩
  | jsrr ignHi baseR ignLo =>
    have hmode : w'.getLsbD 11 = false := (bit rfl).trans (by simp [encode])
    have hdecode : decodeWord w' = .jsrr (w'.extractLsb' 9 2) baseR (w'.extractLsb' 0 6) := by
      rw [decodeWord_jsr_register _ hmode] <;> simp [field, encode, BitVec.extractLsb'_or]
    rw [hdecode]
    exact ⟨rfl, rfl⟩
  | jmp ignHi baseR ignLo =>
    have hmode : w'.getLsbD 11 = false := (bit rfl).trans (by simp [encode])
    have hdecode : decodeWord w' = .jmp (w'.extractLsb' 9 2) baseR (w'.extractLsb' 0 6) := by
      rw [decodeWord_jmp_register _ hmode] <;> simp [field, encode, BitVec.extractLsb'_or]
    rw [hdecode]
    exact ⟨rfl, rfl⟩
  | rti low =>
    have hdecode : decodeWord w' = .rti (w'.extractLsb' 0 12) := by
      rw [decodeWord_rti] <;> simp [field, encode, BitVec.extractLsb'_or]
    rw [hdecode]
    exact ⟨rfl, rfl⟩
  | res low =>
    have hdecode : decodeWord w' = .res (w'.extractLsb' 0 12) := by
      rw [decodeWord_res] <;> simp [field, encode, BitVec.extractLsb'_or]
    rw [hdecode]
    exact ⟨rfl, rfl⟩
  | trap low =>
    have hdecode : decodeWord w' = .trap (w'.extractLsb' 0 12) := by
      rw [decodeWord_trap] <;> simp [field, encode, BitVec.extractLsb'_or]
    rw [hdecode]
    exact ⟨rfl, rfl⟩
  | op11 low => nomatch hlegal
  | br | addImm | ld | st | jsr | andImm | ldr | str | ldi | jmppc | lea =>
    rw [eq_of_differ_nowhere h, decodeWord_encode]
    exact ⟨rfl, rfl⟩

end IgnoredBits

/-- Settles O5: `w` is the word of the instruction that it decodes to. -/
theorem ignoredBitsChangeNothing : Obligations.IgnoredBitsChangeNothing := by
  intro w w' s hlegal h
  refine same_effect_of_differ_under_ignoredMask (decodeWord w) s hlegal ?_
  rwa [encode_decodeWord]

end Sys2Proof
end

section
/-! The addressing unit (40_step_cycle.md R130): every effective address in the spelling of the claims, `wordsFrom`. -/

namespace Sys2Proof.Machine

theorem add_sext_eq_wordsFrom {n : Nat} (base : Word) (v : BitVec n) : base + sext v = wordsFrom base v.toInt := by
  rw [wordsFrom, BitVec.ofInt_add, BitVec.ofInt_natCast, BitVec.ofNat_toNat, BitVec.setWidth_eq]; rfl

theorem wordsFrom_toNat (base : Word) (n : Int) : ((wordsFrom base n).toNat : Int) = (base.toNat + n) % 65536 := by
  rw [wordsFrom, BitVec.toNat_ofInt]
  exact Int.toNat_of_nonneg (Int.emod_nonneg _ (by decide))

theorem eaPc9_eq_wordsFrom (s : State) (off : BitVec 9) : eaPc9 s off = wordsFrom s.pc off.toInt :=
  add_sext_eq_wordsFrom s.pc off

theorem eaPc11_eq_wordsFrom (s : State) (off : BitVec 11) : eaPc11 s off = wordsFrom s.pc off.toInt :=
  add_sext_eq_wordsFrom s.pc off

theorem eaBase6_eq_wordsFrom (s : State) (baseR : RegNum) (off : BitVec 6) :
    eaBase6 s baseR off = wordsFrom (s.readReg baseR) off.toInt :=
  add_sext_eq_wordsFrom (s.readReg baseR) off

/-- Settles O9: each address is `wordsFrom` its base, which is the sum modulo 65,536. -/
theorem effectiveAddressesWrap : Obligations.EffectiveAddressesWrap := by
  intro s baseR o6 o9 o11
  rw [eaIndirect, eaPc9_eq_wordsFrom, eaPc11_eq_wordsFrom, eaBase6_eq_wordsFrom]
  exact ⟨wordsFrom_toNat _ _, wordsFrom_toNat _ _, wordsFrom_toNat _ _, rfl, rfl, rfl, rfl⟩

end Sys2Proof.Machine
end

section
/-! The canonical form of a memory (notes/assumptions/14.md): what is read determines the list. -/

namespace Sys2Proof.Machine.Memory

theorem read_head (a : Nat) (v : Word) (m : Memory) : Memory.read ((a, v) :: m) a = v := by simp

/-- A canonical memory that is read as 0 up to and at `a` lists nothing there: its first cell, if any, is above. -/
theorem read_below_head {a b : Nat} {v : Word} {m : Memory} (hwf : Memory.wf ((b, v) :: m)) (h : a < b) :
    Memory.read ((b, v) :: m) a = Config.memReset := by
  obtain ⟨habove, -⟩ := wf_cons.mp hwf
  refine read_of_lt _ a fun c hc => ?_
  obtain rfl | hc := List.mem_cons.mp hc
  · exact h
  · exact h.trans (habove c hc)

/-- Two canonical memories that read alike list the same first cell: otherwise the lesser of the two first addresses is
read as 0 in one memory and not in the other. -/
theorem head_address_le {a b : Nat} {v w : Word} {m m' : Memory} (hwf : Memory.wf ((a, v) :: m))
    (hwf' : Memory.wf ((b, w) :: m'))
    (h : ∀ x < Config.memWords, Memory.read ((a, v) :: m) x = Memory.read ((b, w) :: m') x) : b ≤ a := by
  obtain ⟨-, ha, hv, -⟩ := wf_cons.mp hwf
  refine Nat.le_of_not_lt fun hlt => hv ?_
  exact (read_head a v m).symm.trans ((h a ha).trans (read_below_head hwf' hlt))

theorem eq_of_read_eq : ∀ {m m' : Memory}, m.wf → m'.wf → (∀ x < Config.memWords, m.read x = m'.read x) → m = m'
  | [], [], _, _, _ => rfl
  | [], (b, w) :: m', _, hwf', h => by
    obtain ⟨-, hb, hw, -⟩ := wf_cons.mp hwf'
    exact absurd ((read_head b w m').symm.trans (h b hb).symm) hw
  | (a, v) :: m, [], hwf, _, h => by
    obtain ⟨-, ha, hv, -⟩ := wf_cons.mp hwf
    exact absurd ((read_head a v m).symm.trans (h a ha)) hv
  | (a, v) :: m, (b, w) :: m', hwf, hwf', h => by
    obtain rfl : a = b := Nat.le_antisymm (head_address_le hwf' hwf fun x hx => (h x hx).symm) (head_address_le hwf hwf' h)
    obtain ⟨habove, ha, -, hm⟩ := wf_cons.mp hwf
    obtain ⟨habove', -, -, hm'⟩ := wf_cons.mp hwf'
    obtain rfl : v = w := by simpa using h a ha
    have htail : m = m' := eq_of_read_eq hm hm' fun x hx => by
      by_cases hxa : a = x
      · rw [read_of_lt m x (hxa ▸ habove), read_of_lt m' x (hxa ▸ habove')]
      · simpa [hxa] using h x hx
    rw [htail]

/-- Settles O11: the law of a write, and equality by induction along both lists, first cell by first cell. -/
theorem canonicalMemoriesAreEqualData : Obligations.CanonicalMemoriesAreEqualData :=
  ⟨fun _ a v hwf ha => write_wf a v ha hwf, fun _ _ hwf hwf' h => eq_of_read_eq hwf hwf' h⟩

end Sys2Proof.Machine.Memory
end

section
/-! Each instruction (41_arith_logic.md to 45_system.md): which words decode to it, and its effect with its frame.  The
effect is the instruction's equation of Laws/Exec.lean, and the frame that of the shape of the equation. -/

namespace Sys2Proof.Machine

/-! ### Arithmetic and logic (41_arith_logic.md) -/

/-- Settles O12: one flagged write of the wrapping sum. -/
theorem addRegisterForm : Obligations.AddRegisterForm :=
  ⟨fun _ => decodeWord_add_register, fun dr sr1 sr2 ign s =>
    ⟨_, _, exec_add s dr sr1 ign sr2, addW_toNat _ _, writeRegCC_flaggedWriteOnly s dr _⟩⟩

/-- Settles O13: one flagged write of the operand plus the sign-extended immediate. -/
theorem addImmediateForm : Obligations.AddImmediateForm := by
  refine ⟨fun _ => decodeWord_add_immediate, fun dr sr1 imm5 s =>
    ⟨_, _, exec_addImm s dr sr1 imm5, ?_, writeRegCC_flaggedWriteOnly s dr _⟩⟩
  rw [add_sext_eq_wordsFrom, wordsFrom_toNat]

/-- Settles O14: one flagged write of the conjunction, whose bits are those of the operands. -/
theorem andRegisterForm : Obligations.AndRegisterForm :=
  ⟨fun _ => decodeWord_and_register, fun dr sr1 sr2 ign s =>
    ⟨_, _, exec_and s dr sr1 ign sr2, fun _ _ => BitVec.getLsbD_and, writeRegCC_flaggedWriteOnly s dr _⟩⟩

/-- Bit `i` of the sign-extended immediate: its own up to bit 4, and its sign above. -/
theorem sext_getLsbD_imm5 (imm5 : BitVec 5) {i : Nat} (hi : i < 16) :
    (sext imm5).getLsbD i = imm5.getLsbD (min i 4) := by
  obtain h | h := Nat.lt_or_ge i 5
  · rw [sext_getLsbD_field imm5 h hi, Nat.min_eq_left (Nat.le_of_lt_succ h)]
  · rw [sext_getLsbD_above imm5 h hi, Nat.min_eq_right (Nat.le_of_lt h)]

/-- Settles O15: one flagged write of the conjunction with the sign-extended immediate. -/
theorem andImmediateForm : Obligations.AndImmediateForm := by
  refine ⟨fun _ => decodeWord_and_immediate, fun dr sr1 imm5 s =>
    ⟨_, _, exec_andImm s dr sr1 imm5, fun i hi => ?_, writeRegCC_flaggedWriteOnly s dr _⟩⟩
  rw [BitVec.getLsbD_and, sext_getLsbD_imm5 imm5 hi]

/-- Settles O16: one flagged write of the complement. -/
theorem notComplements : Obligations.NotComplements :=
  ⟨fun _ => decodeWord_not, fun dr sr ign s =>
    ⟨_, _, exec_not s dr sr ign, BitVec.toNat_not, writeRegCC_flaggedWriteOnly s dr _⟩⟩

/-! ### Control transfer (42_control.md) -/

/-- Settles O17: where the branch is not taken, `pc` is written with what it holds. -/
theorem branchOnFlags : Obligations.BranchOnFlags := by
  refine ⟨fun _ => decodeWord_br, fun nzp off s => ⟨_, exec_br s nzp off, ?_⟩⟩
  rw [eaPc9_eq_wordsFrom]
  simp only [branchTaken_iff]
  split
  · exact setPc_pcOnly s _
  · exact setPc_pcOnly s s.pc

/-- Settles O18: the PC-relative target is that of the state before the link. -/
theorem jsrLinksAndJumps : Obligations.JsrLinksAndJumps :=
  ⟨fun _ => decodeWord_jsr_relative, fun off s =>
    ⟨_, exec_jsr s off, eaPc11_eq_wordsFrom s off ▸ link_setPc_linkedJumpOnly s _⟩⟩

/-- Settles O19: the register is read after the link, so that `R7` gives the link. -/
theorem jsrrLinksThenJumps : Obligations.JsrrLinksThenJumps :=
  ⟨fun _ => decodeWord_jsr_register, fun ignHi baseR ignLo s =>
    ⟨_, exec_jsrr s ignHi baseR ignLo, link_setPc_linkedJumpOnly s _⟩⟩

/-- Settles O20: the same linked register jump as JSRR's. -/
theorem jmpLinksThenJumps : Obligations.JmpLinksThenJumps :=
  ⟨fun _ => decodeWord_jmp_register, fun ignHi baseR ignLo s =>
    ⟨_, exec_jmp s ignHi baseR ignLo, link_setPc_linkedJumpOnly s _⟩⟩

/-- Settles O21: the same linked PC-relative jump as JSR's. -/
theorem jmppcLinksAndJumps : Obligations.JmppcLinksAndJumps :=
  ⟨fun _ => decodeWord_jmp_relative, fun off s =>
    ⟨_, exec_jmppc s off, eaPc11_eq_wordsFrom s off ▸ link_setPc_linkedJumpOnly s _⟩⟩

/-! ### Loads (43_load.md) -/

/-- Settles O22: one flagged write of the PC-relative cell. -/
theorem ldLoadsPcRelative : Obligations.LdLoadsPcRelative :=
  ⟨fun _ => decodeWord_ld, fun dr off s =>
    ⟨_, exec_ld s dr off, eaPc9_eq_wordsFrom s off ▸ writeRegCC_flaggedWriteOnly s dr _⟩⟩

/-- Settles O23: one flagged write of the cell that the PC-relative cell points to. -/
theorem ldiLoadsThroughPointer : Obligations.LdiLoadsThroughPointer :=
  ⟨fun _ => decodeWord_ldi, fun dr off s =>
    ⟨_, exec_ldi s dr off, eaPc9_eq_wordsFrom s off ▸ writeRegCC_flaggedWriteOnly s dr _⟩⟩

/-- Settles O24: the address is of the state before the write of the destination. -/
theorem ldrLoadsBasePlusOffset : Obligations.LdrLoadsBasePlusOffset :=
  ⟨fun _ => decodeWord_ldr, fun dr baseR off s =>
    ⟨_, exec_ldr s dr baseR off, eaBase6_eq_wordsFrom s baseR off ▸ writeRegCC_flaggedWriteOnly s dr _⟩⟩

/-- Settles O25: one flagged write of the address itself. -/
theorem leaLoadsAddressAndSetsFlags : Obligations.LeaLoadsAddressAndSetsFlags :=
  ⟨fun _ => decodeWord_lea, fun dr off s =>
    ⟨_, exec_lea s dr off, eaPc9_eq_wordsFrom s off ▸ writeRegCC_flaggedWriteOnly s dr _⟩⟩

/-! ### Stores (44_store.md) -/

/-- Settles O26: one write of the cell that the address expression gives. -/
theorem stStoresPcRelative : Obligations.StStoresPcRelative :=
  ⟨fun _ => decodeWord_st, fun sr off s =>
    ⟨_, exec_st s sr off, rfl, eaPc9_eq_wordsFrom s off, memWrite_storeOnly s _ _⟩⟩

/-- Settles O27: one write of the cell that the address expression gives. -/
theorem strStoresBasePlusOffset : Obligations.StrStoresBasePlusOffset :=
  ⟨fun _ => decodeWord_str, fun sr baseR off s =>
    ⟨_, exec_str s sr baseR off, rfl, eaBase6_eq_wordsFrom s baseR off, memWrite_storeOnly s _ _⟩⟩

/-! ### The system slots and the opcode with no handler (45_system.md) -/

/-- Settles O28: the three slots are no-ops for every filling of the low bits. -/
theorem noOpSlots : Obligations.NoOpSlots :=
  ⟨fun _ => decodeWord_trap, fun _ => decodeWord_rti, fun _ => decodeWord_res,
    fun low s => ⟨exec_trap s low, exec_rti s low, exec_res s low⟩⟩

theorem encode_op11 (low : BitVec 12) : encode (.op11 low) = 0xB000 ||| low.setWidth 16 := by
  have hopcode : putField 12 Op.op11 = 0xB000 := rfl
  rw [encode, hopcode, putField, BitVec.shiftLeft_zero]

/-- Settles O29: fault entry keeps a record that is latched, and changes nothing but the latch and `pc`. -/
theorem unrecognizedOpcodeEntry : Obligations.UnrecognizedOpcodeEntry := by
  refine ⟨fun _ => decodeWord_op11, fun low s => ⟨_, exec_op11 s low, fun hf => ?_, fun r hf => ?_, rfl,
    s.takeFault_readReg _ _, rfl, s.takeFault_memRead _ _, rfl⟩⟩
  · rw [State.takeFault_fault, hf, encode_op11]; rfl
  · rw [State.takeFault_fault, hf]; rfl

end Sys2Proof.Machine
end

section
/-! What an instruction may touch (10_state.md sections 2 and 5; 20_memory.md section 2; 60_exceptions.md section 1): the
shapes of effect that there are, and which values an effect depends on. -/

namespace Sys2Proof.Machine

/-! ### Everything an instruction can do -/

/-- `Effect i s t`: what `i` makes of the state `s` of its execute phase is `t`, in one of five shapes. -/
inductive Effect (i : Instr) (s : State) : State → Prop where
  | flaggedWrite {d : RegNum} (v : Word) (hlegal : i.WellFormed) (hgpr : gprWritten i = some d)
      (hcell : storeAddress i s = none) : Effect i s (s.writeRegCC d v)
  | linkedJump (target : Word) (hlegal : i.WellFormed) (hgpr : gprWritten i = some 7)
      (hcell : storeAddress i s = none) : Effect i s ((s.writeReg 7 s.pc).setPc target)
  | store {a : Word} (v : Word) (hlegal : i.WellFormed) (hcell : storeAddress i s = some a) :
      Effect i s (s.memWrite a v)
  | pcOnly (target : Word) (hlegal : i.WellFormed) (hcell : storeAddress i s = none) : Effect i s (s.setPc target)
  | fault {low : BitVec 12} (hop : i = .op11 low) : Effect i s (s.takeFault .unrecognizedOpcode (encode i))

theorem branch_effect (nzp : Cond) (off : BitVec 9) (s : State) :
    Effect (.br nzp off) s (if branchTaken nzp s.cond then s.setPc (eaPc9 s off) else s) := by
  split
  · exact .pcOnly _ rfl rfl
  · exact .pcOnly s.pc rfl rfl

/-- Every instruction completes, with one of the five effects.  A no-op is the write of `pc` with what it holds. -/
theorem exec_effect (s : State) : ∀ i : Instr, ∃ t, exec i s = .next t ∧ Effect i s t
  | .add dr sr1 ign sr2 => ⟨_, exec_add s dr sr1 ign sr2, .flaggedWrite _ rfl rfl rfl⟩
  | .addImm dr sr1 imm => ⟨_, exec_addImm s dr sr1 imm, .flaggedWrite _ rfl rfl rfl⟩
  | .and dr sr1 ign sr2 => ⟨_, exec_and s dr sr1 ign sr2, .flaggedWrite _ rfl rfl rfl⟩
  | .andImm dr sr1 imm => ⟨_, exec_andImm s dr sr1 imm, .flaggedWrite _ rfl rfl rfl⟩
  | .not dr sr ign => ⟨_, exec_not s dr sr ign, .flaggedWrite _ rfl rfl rfl⟩
  | .ld dr off => ⟨_, exec_ld s dr off, .flaggedWrite _ rfl rfl rfl⟩
  | .ldi dr off => ⟨_, exec_ldi s dr off, .flaggedWrite _ rfl rfl rfl⟩
  | .ldr dr baseR off => ⟨_, exec_ldr s dr baseR off, .flaggedWrite _ rfl rfl rfl⟩
  | .lea dr off => ⟨_, exec_lea s dr off, .flaggedWrite _ rfl rfl rfl⟩
  | .jsr off => ⟨_, exec_jsr s off, .linkedJump _ rfl rfl rfl⟩
  | .jsrr ignHi baseR ignLo => ⟨_, exec_jsrr s ignHi baseR ignLo, .linkedJump _ rfl rfl rfl⟩
  | .jmp ignHi baseR ignLo => ⟨_, exec_jmp s ignHi baseR ignLo, .linkedJump _ rfl rfl rfl⟩
  | .jmppc off => ⟨_, exec_jmppc s off, .linkedJump _ rfl rfl rfl⟩
  | .st sr off => ⟨_, exec_st s sr off, .store _ rfl rfl⟩
  | .str sr baseR off => ⟨_, exec_str s sr baseR off, .store _ rfl rfl⟩
  | .br nzp off => ⟨_, exec_br s nzp off, branch_effect nzp off s⟩
  | .trap low => ⟨_, exec_trap s low, .pcOnly s.pc rfl rfl⟩
  | .rti low => ⟨_, exec_rti s low, .pcOnly s.pc rfl rfl⟩
  | .res low => ⟨_, exec_res s low, .pcOnly s.pc rfl rfl⟩
  | .op11 low => ⟨_, exec_op11 s low, .fault rfl⟩

/-- The inversion of `exec`: a next state is one of the five effects. -/
theorem effect_of_exec {i : Instr} {s t : State} (h : exec i s = .next t) : Effect i s t := by
  obtain ⟨t', ht', heffect⟩ := exec_effect s i
  obtain rfl : t' = t := Host.Outcome.next.inj (ht'.symm.trans h)
  exact heffect

/-! ### What changes -/

/-- Settles O34: only the two shapes of a register write change a register, and each writes the one of the table. -/
theorem registerWritesFollowTable : Obligations.RegisterWritesFollowTable := by
  intro i s t j hexec hj
  have hother {d : RegNum} (hgpr : gprWritten i = some d) : j ≠ d := fun hjd => hj (hjd ▸ hgpr)
  cases effect_of_exec hexec with
  | flaggedWrite v _ hgpr _ => exact s.readReg_writeRegCC_other v (hother hgpr)
  | linkedJump target _ hgpr _ => exact s.readReg_writeReg_other s.pc (hother hgpr)
  | store v _ _ => rfl
  | pcOnly target _ _ => rfl
  | fault _ => rfl

/-- Settles O36: only the shape of a store changes a cell, and it is the one of `storeAddress`. -/
theorem memoryChangesOnlyByStores : Obligations.MemoryChangesOnlyByStores := by
  intro i s t hexec
  cases effect_of_exec hexec with
  | flaggedWrite v _ _ hcell => exact ⟨fun _ ha => (nomatch hcell.symm.trans ha), fun _ _ => rfl⟩
  | linkedJump target _ _ hcell => exact ⟨fun _ ha => (nomatch hcell.symm.trans ha), fun _ _ => rfl⟩
  | store v _ hcell =>
    refine ⟨fun a ha => ?_, fun hnone => nomatch hcell.symm.trans hnone⟩
    obtain rfl := Option.some.inj (hcell.symm.trans ha)
    exact (memWrite_storeOnly s _ v).otherCells
  | pcOnly target _ hcell => exact ⟨fun _ ha => (nomatch hcell.symm.trans ha), fun _ _ => rfl⟩
  | fault hop =>
    subst hop
    exact ⟨fun _ ha => (nomatch ha), fun _ _ => rfl⟩

theorem Effect.run_eq {i : Instr} {s t : State} (h : Effect i s t) : t.run = s.run := by
  cases h <;> rfl

theorem Effect.fault_eq_of_legal {i : Instr} {s t : State} (h : Effect i s t) (hlegal : i.WellFormed) :
    t.fault = s.fault := by
  cases h with
  | fault hop => subst hop; nomatch hlegal
  | flaggedWrite | linkedJump | store | pcOnly => rfl

theorem Effect.eq_takeFault_of_not_legal {i : Instr} {s t : State} (h : Effect i s t) (hillegal : ¬ i.WellFormed) :
    t = s.takeFault .unrecognizedOpcode (encode i) := by
  cases h with
  | fault _ => rfl
  | flaggedWrite _ hlegal | linkedJump _ hlegal | store _ hlegal | pcOnly _ hlegal => exact absurd hlegal hillegal

/-- Settles O38: the shapes of the legal instructions keep the latch, and the one other shape is fault entry. -/
theorem onlyOp11RaisesAFault : Obligations.OnlyOp11RaisesAFault := by
  intro i s
  obtain ⟨t, hexec, heffect⟩ := exec_effect s i
  refine ⟨t, hexec, heffect.run_eq, heffect.fault_eq_of_legal, fun hillegal hf => ?_⟩
  rw [heffect.eq_takeFault_of_not_legal hillegal, State.takeFault_fault, hf]
  exact ⟨_, rfl, rfl⟩

/-! ### What has influence: the general registers (R23) -/

/-- A later write of the same register hides an earlier one; writes of different registers can be exchanged. -/
theorem writeReg_writeReg (s : State) (k d : RegNum) (v x : Word) : (s.writeReg k v).writeReg d x =
    if some d = some k then s.writeReg d x else (s.writeReg d x).writeReg k v := by
  split <;> rename_i h
  · obtain rfl := Option.some.inj h
    simp [State.writeReg]
  · have hne : k.toNat ≠ d.toNat := fun hkd => h (congrArg some (BitVec.toNat_inj.1 hkd).symm)
    simp [State.writeReg, Vector.set_comm _ _ hne]

theorem writeRegCC_eq (s : State) (d : RegNum) (x : Word) :
    s.writeRegCC d x = { s.writeReg d x with cond := setcc x } := rfl

theorem writeReg_writeRegCC (s : State) (k d : RegNum) (v x : Word) : (s.writeReg k v).writeRegCC d x =
    if some d = some k then s.writeRegCC d x else (s.writeRegCC d x).writeReg k v := by
  rw [writeRegCC_eq, writeReg_writeReg]
  split <;> rfl

/-- The value of `k` from before has no influence on `i`: what UnreadRegistersDoNotMatter says of one instruction. -/
def NoInfluence (i : Instr) (s : State) (k : RegNum) (v : Word) : Prop :=
  exec i (s.writeReg k v) = mapNext (fun t => if gprWritten i = some k then t else t.writeReg k v) (exec i s)

section NoInfluence

variable {i : Instr} {s : State} {k : RegNum} {v : Word}

/-- A flagged write of the same value from both states. -/
theorem NoInfluence.of_flaggedWrite {d : RegNum} {x : Word} (hgpr : gprWritten i = some d)
    (h : exec i s = .next (s.writeRegCC d x)) (h' : exec i (s.writeReg k v) = .next ((s.writeReg k v).writeRegCC d x)) :
    NoInfluence i s k v := by
  rw [NoInfluence, h, h', hgpr, mapNext, writeReg_writeRegCC]

/-- A linked jump to the same target from both states. -/
theorem NoInfluence.of_linkedJump {target : Word} (hgpr : gprWritten i = some 7)
    (h : exec i s = .next ((s.writeReg 7 s.pc).setPc target))
    (h' : exec i (s.writeReg k v) = .next (((s.writeReg k v).writeReg 7 s.pc).setPc target)) : NoInfluence i s k v := by
  rw [NoInfluence, h, h', hgpr, mapNext, writeReg_writeReg]
  split <;> rfl

/-- An effect that writes no register and commutes with the write of any. -/
theorem NoInfluence.of_no_register {t : State} (hgpr : gprWritten i = none) (h : exec i s = .next t)
    (h' : exec i (s.writeReg k v) = .next (t.writeReg k v)) : NoInfluence i s k v := by
  rw [NoInfluence, h, h', hgpr, mapNext, if_neg (nofun)]

end NoInfluence

theorem jumpTarget_of_unread {s : State} {k baseR : RegNum} (v : Word) (h : k ∉ if baseR = 7 then [] else [baseR]) :
    (if baseR = 7 then s.pc else (s.writeReg k v).readReg baseR) = if baseR = 7 then s.pc else s.readReg baseR := by
  split
  · rfl
  · rename_i h7
    rw [if_neg h7, List.mem_singleton] at h
    exact s.readReg_writeReg_other v (Ne.symm h)

/-- An instruction reads the registers of the table only, and its effect has one of the three shapes above. -/
theorem noInfluence_of_unread (s : State) (k : RegNum) (v : Word) (i : Instr) (hk : k ∉ gprsRead i) :
    NoInfluence i s k v := by
  have read (j : RegNum) (hj : j ∈ gprsRead i) : (s.writeReg k v).readReg j = s.readReg j :=
    s.readReg_writeReg_other v (ne_of_mem_of_not_mem hj hk)
  cases i with
  | add dr sr1 ign sr2 =>
    refine .of_flaggedWrite rfl (exec_add s dr sr1 ign sr2) ?_
    rw [exec_add, read sr1 (by simp [gprsRead]), read sr2 (by simp [gprsRead])]
  | addImm dr sr1 imm =>
    refine .of_flaggedWrite rfl (exec_addImm s dr sr1 imm) ?_
    rw [exec_addImm, read sr1 (by simp [gprsRead])]
  | and dr sr1 ign sr2 =>
    refine .of_flaggedWrite rfl (exec_and s dr sr1 ign sr2) ?_
    rw [exec_and, read sr1 (by simp [gprsRead]), read sr2 (by simp [gprsRead])]
  | andImm dr sr1 imm =>
    refine .of_flaggedWrite rfl (exec_andImm s dr sr1 imm) ?_
    rw [exec_andImm, read sr1 (by simp [gprsRead])]
  | not dr sr ign =>
    refine .of_flaggedWrite rfl (exec_not s dr sr ign) ?_
    rw [exec_not, read sr (by simp [gprsRead])]
  | ldr dr baseR off =>
    refine .of_flaggedWrite rfl (exec_ldr s dr baseR off) ?_
    rw [exec_ldr, eaBase6, read baseR (by simp [gprsRead])]
    rfl
  | ld dr off => exact .of_flaggedWrite rfl (exec_ld s dr off) rfl
  | ldi dr off => exact .of_flaggedWrite rfl (exec_ldi s dr off) rfl
  | lea dr off => exact .of_flaggedWrite rfl (exec_lea s dr off) rfl
  | jsr off => exact .of_linkedJump rfl (exec_jsr s off) rfl
  | jmppc off => exact .of_linkedJump rfl (exec_jmppc s off) rfl
  | jsrr ignHi baseR ignLo =>
    refine .of_linkedJump rfl (exec_jsrr s ignHi baseR ignLo) ?_
    rw [exec_jsrr, State.writeReg_pc, jumpTarget_of_unread v hk]
  | jmp ignHi baseR ignLo =>
    refine .of_linkedJump rfl (exec_jmp s ignHi baseR ignLo) ?_
    rw [exec_jmp, State.writeReg_pc, jumpTarget_of_unread v hk]
  | st sr off =>
    refine .of_no_register rfl (exec_st s sr off) ?_
    rw [exec_st, read sr (by simp [gprsRead])]
    rfl
  | str sr baseR off =>
    refine .of_no_register rfl (exec_str s sr baseR off) ?_
    rw [exec_str, eaBase6, read sr (by simp [gprsRead]), read baseR (by simp [gprsRead])]
    rfl
  | br nzp off =>
    refine .of_no_register rfl (exec_br s nzp off) ?_
    rw [exec_br, apply_ite (State.writeReg k v)]
    rfl
  | trap low => exact .of_no_register rfl (exec_trap s low) rfl
  | rti low => exact .of_no_register rfl (exec_rti s low) rfl
  | res low => exact .of_no_register rfl (exec_res s low) rfl
  | op11 low => exact .of_no_register rfl (exec_op11 s low) rfl

/-- Settles O35: instruction by instruction, the values read from both states are the same. -/
theorem unreadRegistersDoNotMatter : Obligations.UnreadRegistersDoNotMatter := fun i s k v hk =>
  noInfluence_of_unread s k v i hk

/-! ### What has influence: the control state (R33) -/

/-- `s` with another running flag and another latch. -/
def State.withControl (b : Bool) (f : Option FaultRecord) (s : State) : State := { s with run := b, fault := f }

theorem exec_withControl (s : State) (b : Bool) (f : Option FaultRecord) (i : Instr) (hlegal : i.WellFormed) :
    exec i (s.withControl b f) = mapNext (State.withControl b f) (exec i s) := by
  cases i with
  | op11 low => nomatch hlegal
  | br nzp off =>
    rw [exec_br, exec_br, mapNext, apply_ite (State.withControl b f)]
    rfl
  | _ => rfl

/-- Settles O37: the equation of no legal instruction names the running flag or the latch. -/
theorem controlStateOutOfReach : Obligations.ControlStateOutOfReach := fun i s b f hlegal =>
  exec_withControl s b f i hlegal

end Sys2Proof.Machine
end

section
/-! The step (40_step_cycle.md section 1; 70_reset_and_hazards.md section 1), on the machine and on every platform: when it
is accepted, and everything that an accepted one can do. -/

namespace Sys2Proof.Machine

/-! ### Acceptance (R263) -/

section Accepted

variable {s : State}

theorem stepOn_of_accepting (p : Platform) (hacc : Accepting s) :
    stepOn p s = execOn p (decodeWord s.fetch) s.advancePc := gateStep_accepting _ hacc.1 hacc.2

theorem step_of_accepting (hacc : Accepting s) : step s = exec (decodeWord s.fetch) s.advancePc :=
  gateStep_accepting _ hacc.1 hacc.2

theorem accepting_of_stepOn_next {p : Platform} {t : State} (h : stepOn p s = .next t) : Accepting s :=
  let ⟨hrun, hfault, _⟩ := gateStep_next _ h
  ⟨hrun, hfault⟩

theorem transact_step_of_next {p : Platform} {t : State} (h : stepOn p s = .next t) :
    transact p .step s = (.stepped t.fault.isSome, t) := by
  simp only [transact, h]

theorem transact_step_of_not_accepting (p : Platform) (hacc : ¬ Accepting s) : transact p .step s = (.refused, s) := by
  cases h : stepOn p s with
  | next t => exact absurd (accepting_of_stepOn_next h) hacc
  | fault | refused => simp only [transact, h]

end Accepted

/-- Settles O31: the word at `pc` is the one fetched, and the body runs on the advanced state. -/
theorem stepRunsDecodedInstruction : Obligations.StepRunsDecodedInstruction := by
  rintro s _ hacc rfl
  exact step_of_accepting hacc

/-! ### The platform and the machine (00_scope.md R6) -/

/-- The platform's parameters matter to TRAP and to opcode 12 only. -/
theorem execOn_eq_exec {p : Platform} {i : Instr} (s : State) (hmode : p.opc12Mode = .linkJump)
    (hhook : ∀ low, i = .trap low → p.trapHook = none) : execOn p i s = exec i s := by
  cases i with
  | trap low => rw [execOn, hhook low rfl]; rfl
  | jmp ignHi baseR ignLo => rw [execOn, hmode]; rfl
  | jmppc off => rw [execOn, hmode]; rfl
  | _ => rfl

/-- A gated step runs its body on the fetched word and the advanced state, and on nothing else. -/
theorem gateStep_congr {body body' : Word → State → Host.Outcome State Fault Refusal} {s : State}
    (h : body s.fetch s.advancePc = body' s.fetch s.advancePc) : gateStep body s = gateStep body' s := by
  rw [gateStep, gateStep, h]

theorem stepOn_eq_step {p : Platform} {s : State} (hmode : p.opc12Mode = .linkJump)
    (hhook : ∀ low, decodeWord s.fetch = .trap low → p.trapHook = none) : stepOn p s = step s :=
  gateStep_congr (execOn_eq_exec s.advancePc hmode hhook)

theorem stepOn_default (s : State) : stepOn Platform.default s = step s := stepOn_eq_step rfl fun _ _ => rfl

/-- Settles O54: the default platform has no hook, and a word that decodes to TRAP has opcode 15. -/
theorem defaultPlatformIsTheMachine : Obligations.DefaultPlatformIsTheMachine := by
  refine ⟨stepOn_default, fun p s hmode hop => stepOn_eq_step hmode fun low hlow => ?_⟩
  exact absurd (opcode_of_decodeWord hlow) hop

/-! ### The steps that can raise a fault (R231, R214; decision D2) -/

/-- Fault entry from an accepted step: the state before the step with the latch set (R238). -/
theorem takeFault_advancePc_of_no_fault {s : State} (c : FaultCause) (w : Word) (hf : s.fault = none) :
    s.advancePc.takeFault c w = { s with fault := some ⟨c, s.pc, w⟩ } := by
  rw [State.takeFault_advancePc, State.latch, hf]
  rfl

section Raised

variable {p : Platform} {s : State}

theorem stepOn_op11 (hacc : Accepting s) (hop : s.fetch.extractLsb' 12 4 = 11#4) :
    stepOn p s = .next { s with fault := some ⟨.unrecognizedOpcode, s.pc, s.fetch⟩ } := by
  have hdecode := decodeWord_op11 hop
  rw [stepOn_of_accepting p hacc, ← takeFault_advancePc_of_no_fault _ _ hacc.2, hdecode, execOn, exec_op11,
    encode_of_decodeWord hdecode]

theorem stepOn_opcode12_unimplemented (hmode : p.opc12Mode = .unimplemented) (hacc : Accepting s)
    (hop : s.fetch.extractLsb' 12 4 = 12#4) :
    stepOn p s = .next { s with fault := some ⟨.unrecognizedOpcode, s.pc, s.fetch⟩ } := by
  rw [stepOn_of_accepting p hacc, ← takeFault_advancePc_of_no_fault _ _ hacc.2]
  cases hm : s.fetch.getLsbD 11 with
  | true =>
    have hdecode := decodeWord_jmp_relative hop hm
    rw [hdecode, execOn, hmode, jmppcUnder, encode_of_decodeWord hdecode]
  | false =>
    have hdecode := decodeWord_jmp_register hop hm
    rw [hdecode, execOn, hmode, jmpUnder, encode_of_decodeWord hdecode]

theorem stepOn_trap_ok {h : TrapHook} {t : State} (hhook : p.trapHook = some h) (hacc : Accepting s)
    (hop : s.fetch.extractLsb' 12 4 = 15#4) (hanswer : h s.advancePc s.fetch = .ok t) : stepOn p s = .next t := by
  have hdecode := decodeWord_trap hop
  rw [stepOn_of_accepting p hacc, hdecode, execOn, hhook]
  simp only [trapSlot, encode_of_decodeWord hdecode, hanswer]

theorem stepOn_trap_error {h : TrapHook} {c : FaultCause} (hhook : p.trapHook = some h) (hacc : Accepting s)
    (hop : s.fetch.extractLsb' 12 4 = 15#4) (hanswer : h s.advancePc s.fetch = .error c) :
    stepOn p s = .next { s with fault := some ⟨c, s.pc, s.fetch⟩ } := by
  have hdecode := decodeWord_trap hop
  rw [stepOn_of_accepting p hacc, ← takeFault_advancePc_of_no_fault _ _ hacc.2, hdecode, execOn, hhook]
  simp only [trapSlot, encode_of_decodeWord hdecode, hanswer]

end Raised

/-- Settles O30: the step takes the fault, and the gating stops the next one. -/
theorem faultedStepCommitsNothing : Obligations.FaultedStepCommitsNothing := fun s hacc hop =>
  ⟨(stepOn_default s).symm.trans (stepOn_op11 hacc hop), gateStep_faulted _ rfl⟩

/-- Settles O53: the trap slot hands the hook the advanced state and the word, and takes its answer. -/
theorem trapHookInsideStep : Obligations.TrapHookInsideStep := fun _ _ _ hhook hacc hop =>
  ⟨fun _ => stepOn_trap_ok hhook hacc hop, fun _ => stepOn_trap_error hhook hacc hop⟩

/-- Settles O55: both forms of opcode 12 take the fault. -/
theorem opcodeTwelveUnimplemented : Obligations.OpcodeTwelveUnimplemented := fun _ _ hmode hacc hop =>
  stepOn_opcode12_unimplemented hmode hacc hop

/-! ### Everything an accepted step can do -/

/-- `StepEffect p s t`: an accepted STEP of `s` on `p` gives `t`, as the effect of a legal instruction on the advanced
state, as a fault that is raised, or as the answer of the hook. -/
inductive StepEffect (p : Platform) (s : State) : State → Prop where
  | legal {t : State} (hlegal : (decodeWord s.fetch).WellFormed) (heffect : Effect (decodeWord s.fetch) s.advancePc t) :
      StepEffect p s t
  | raised {cause : FaultCause} (hraises : StepRaises p s cause) :
      StepEffect p s { s with fault := some ⟨cause, s.pc, s.fetch⟩ }
  | hooked {h : TrapHook} {t : State} (hhook : p.trapHook = some h) (hanswer : h s.advancePc s.fetch = .ok t) :
      StepEffect p s t

theorem stepOn_effect_of_exec {p : Platform} {s : State} {i : Instr} (hacc : Accepting s)
    (hdecode : decodeWord s.fetch = i) (hlegal : i.WellFormed) (hexec : ∀ u, execOn p i u = exec i u) :
    ∃ t, stepOn p s = .next t ∧ StepEffect p s t := by
  subst hdecode
  obtain ⟨t, ht, heffect⟩ := exec_effect s.advancePc (decodeWord s.fetch)
  exact ⟨t, (stepOn_of_accepting p hacc).trans ((hexec _).trans ht), .legal hlegal heffect⟩

/-- An accepted step always answers a next state. -/
theorem stepOn_effect {s : State} (p : Platform) (hacc : Accepting s) :
    ∃ t, stepOn p s = .next t ∧ StepEffect p s t := by
  cases hdecode : decodeWord s.fetch with
  | op11 low =>
    have hop : s.fetch.extractLsb' 12 4 = 11#4 := opcode_of_decodeWord hdecode
    exact ⟨_, stepOn_op11 hacc hop, .raised (.inl ⟨hop, rfl⟩)⟩
  | jmp ignHi baseR ignLo =>
    have hop : s.fetch.extractLsb' 12 4 = 12#4 := opcode_of_decodeWord hdecode
    cases hmode : p.opc12Mode with
    | linkJump => exact stepOn_effect_of_exec hacc hdecode rfl fun u => execOn_eq_exec u hmode nofun
    | unimplemented =>
      exact ⟨_, stepOn_opcode12_unimplemented hmode hacc hop, .raised (.inr (.inl ⟨hop, hmode, rfl⟩))⟩
  | jmppc off =>
    have hop : s.fetch.extractLsb' 12 4 = 12#4 := opcode_of_decodeWord hdecode
    cases hmode : p.opc12Mode with
    | linkJump => exact stepOn_effect_of_exec hacc hdecode rfl fun u => execOn_eq_exec u hmode nofun
    | unimplemented =>
      exact ⟨_, stepOn_opcode12_unimplemented hmode hacc hop, .raised (.inr (.inl ⟨hop, hmode, rfl⟩))⟩
  | trap low =>
    have hop : s.fetch.extractLsb' 12 4 = 15#4 := opcode_of_decodeWord hdecode
    cases hhook : p.trapHook with
    | none => exact stepOn_effect_of_exec hacc hdecode rfl fun u => by rw [execOn, hhook]; rfl
    | some h =>
      cases hanswer : h s.advancePc s.fetch with
      | ok t => exact ⟨t, stepOn_trap_ok hhook hacc hop hanswer, .hooked hhook hanswer⟩
      | error c =>
        exact ⟨_, stepOn_trap_error hhook hacc hop hanswer, .raised (.inr (.inr ⟨hop, h, hhook, hanswer⟩))⟩
  | _ => exact stepOn_effect_of_exec hacc hdecode rfl fun _ => rfl

/-- The inversion of the step: a next state comes of an accepted step, with one of its effects. -/
theorem effect_of_stepOn {p : Platform} {s t : State} (h : stepOn p s = .next t) :
    Accepting s ∧ StepEffect p s t := by
  have hacc := accepting_of_stepOn_next h
  obtain ⟨t', ht', heffect⟩ := stepOn_effect p hacc
  obtain rfl : t' = t := Host.Outcome.next.inj (ht'.symm.trans h)
  exact ⟨hacc, heffect⟩

/-- Settles O32: an accepted step completes, and every other stops in the gating. -/
theorem stepGating : Obligations.StepGating := by
  refine fun p s => ⟨fun hacc => ?_, fun hacc => ⟨fun t ht => hacc (accepting_of_stepOn_next ht), ?_⟩,
    fun hrun hfault => gateStep_halted _ hrun hfault, fun r hfault => gateStep_faulted _ hfault⟩
  · obtain ⟨t, ht, -⟩ := stepOn_effect p hacc
    exact ⟨t, ht, transact_step_of_next ht⟩
  · exact transact_step_of_not_accepting p hacc

/-! ### Two runs (10_state.md section 9; 20_memory.md section 5) -/

theorem decodeWord_zero : decodeWord 0 = .br 0 0 := by decide

/-- The word 0 is a branch that names no flag: the step only advances `pc`. -/
theorem step_of_fetch_zero {s : State} (hacc : Accepting s) (hzero : s.fetch = 0) : step s = .next s.advancePc := by
  have hnever : branchTaken 0 s.advancePc.cond = false := by simp [branchTaken]
  rw [step_of_accepting hacc, hzero, decodeWord_zero, exec_br, hnever]
  rfl

theorem core_run_of_memory_zero (n : Nat) (s : State) (hacc : Accepting s) (hzero : ∀ a : Word, s.memRead a = 0) :
    core.run n s = .next { s with pc := s.pc + BitVec.ofNat 16 n } := by
  induction n generalizing s with
  | zero => simp [core_run_zero]
  | succ n ih =>
    have hpc : s.pc + BitVec.ofNat 16 (n + 1) = s.advancePc.pc + BitVec.ofNat 16 n := by
      rw [State.advancePc_pc, Nat.add_comm, BitVec.ofNat_add, BitVec.add_assoc]
      rfl
    rw [core_run_succ n (step_of_fetch_zero hacc (hzero s.pc)), ih s.advancePc hacc hzero, hpc]
    rfl

/-- Settles O39: by induction on the number of steps, each of them a no-op. -/
theorem neverWrittenMemoryIsNoOps : Obligations.NeverWrittenMemoryIsNoOps := core_run_of_memory_zero

/-- After a store into the next word in sequence the next step fetches the stored word. -/
theorem step_after_store_into_next {s t : State} {v : Word} (hacc : Accepting s)
    (ht : t = s.advancePc.memWrite (s.pc + 1) v) : step t = exec (decodeWord v) t.advancePc := by
  subst ht
  have hfetch : (s.advancePc.memWrite (s.pc + 1) v).fetch = v := State.memRead_memWrite_self _ _ _
  have hacc' : Accepting (s.advancePc.memWrite (s.pc + 1) v) := hacc
  rw [step_of_accepting hacc', hfetch]

/-- Settles O40: both stores write the cell that the next step fetches. -/
theorem storeSeenByNextFetch : Obligations.StoreSeenByNextFetch := by
  refine fun s sr baseR o9 o6 hacc => ⟨fun hdecode hea => ?_, fun hdecode hea => ?_⟩
  · refine ⟨_, (step_of_accepting hacc).trans (hdecode ▸ exec_st s.advancePc sr o9), ?_⟩
    rw [hea]
    exact step_after_store_into_next hacc rfl
  · refine ⟨_, (step_of_accepting hacc).trans (hdecode ▸ exec_str s.advancePc sr baseR o6), ?_⟩
    rw [hea]
    exact step_after_store_into_next hacc rfl

end Sys2Proof.Machine
end

section
/-! The host's transactions (70_reset_and_hazards.md): everything that one can do. -/

namespace Sys2Proof.Machine

/-- `TransactEffect p t s out`: the transaction `t` in the state `s` answers `out`, a response and a state, in one of nine
shapes. -/
inductive TransactEffect (p : Platform) (t : Transaction) (s : State) : Response × State → Prop where
  | kept (r : Response) : TransactEffect p t s (r, s)
  | reset (ht : t = .reset) : TransactEffect p t s (.done, State.reset)
  | started (ht : t = .start) (hrun : s.run = false) : TransactEffect p t s (.done, s.start p.entryAddress)
  | stepped {u : State} (ht : t = .step) (hacc : Accepting s) (heffect : StepEffect p s u) :
      TransactEffect p t s (.stepped u.fault.isSome, u)
  | memory (a v : Word) : TransactEffect p t s (.done, s.memWrite a v)
  | gpr (k : RegNum) (v : Word) : TransactEffect p t s (.done, s.writeReg k v)
  | gprFlagged (k : RegNum) (v : Word) : TransactEffect p t s (.done, s.writeRegCC k v)
  | pc (v : Word) : TransactEffect p t s (.done, s.setPc v)
  | rejected (ht : t ≠ .step) (cause : FaultCause) (word : Word) :
      TransactEffect p t s (.rejected cause, s.rejectAccess cause word)

/-! ### One law a transaction that has more than one outcome -/

section Ports

variable (p : Platform) {s : State}

theorem transact_start_of_halted (hrun : s.run = false) (hf : s.fault = none) :
    transact p .start s = (.done, s.start p.entryAddress) := if_pos ⟨hrun, hf⟩

theorem transact_start_refused (h : ¬ (s.run = false ∧ s.fault = none)) : transact p .start s = (.refused, s) := if_neg h

theorem gprOfAddress_of_lt {n : Nat} (hn : n < 8) : State.gprOfAddress n = some (BitVec.ofNat 3 n) := if_pos hn

theorem gprOfAddress_of_ge {n : Nat} (hn : 8 ≤ n) : State.gprOfAddress n = none := if_neg (Nat.not_lt.2 hn)

theorem transact_regReadAddr_of_lt (s : State) {n : Nat} (hn : n < 8) :
    transact p (.regReadAddr n) s = (.word (s.readReg (BitVec.ofNat 3 n)), s) := by
  simp only [transact, gprOfAddress_of_lt hn]

theorem transact_regReadAddr_of_ge (s : State) {n : Nat} (hn : 8 ≤ n) : transact p (.regReadAddr n) s =
    (.rejected .invalidRegisterAddress, s.rejectAccess .invalidRegisterAddress (BitVec.ofNat 16 n)) := by
  simp only [transact, gprOfAddress_of_ge hn, State.addressWord]

theorem transact_regWriteCC_address_of_lt (s : State) {n : Nat} (v : Word) (hn : n < 8) :
    transact p (.regWriteCC (.byAddress n) v) s = (.done, s.writeRegCC (BitVec.ofNat 3 n) v) := by
  simp only [transact, gprOfAddress_of_lt hn]

theorem transact_regWriteCC_address_of_ge (s : State) {n : Nat} (v : Word) (hn : 8 ≤ n) :
    transact p (.regWriteCC (.byAddress n) v) s =
      (.rejected .invalidRegisterAddress, s.rejectAccess .invalidRegisterAddress (BitVec.ofNat 16 n)) := by
  simp only [transact, gprOfAddress_of_ge hn, State.addressWord]

end Ports

/-- Every transaction has one of the nine shapes. -/
theorem transact_effect (p : Platform) (s : State) : ∀ t : Transaction, TransactEffect p t s (transact p t s)
  | .reset => .reset rfl
  | .loaderWrite a w => .memory (BitVec.ofNat 16 a) w
  | .loaderRead _ => .kept _
  | .start => by
    by_cases h : s.run = false ∧ s.fault = none
    · rw [transact_start_of_halted p h.1 h.2]
      exact .started rfl h.1
    · rw [transact_start_refused p h]
      exact .kept _
  | .step => by
    by_cases hacc : Accepting s
    · obtain ⟨u, hu, heffect⟩ := stepOn_effect p hacc
      rw [transact_step_of_next hu]
      exact .stepped rfl hacc heffect
    · rw [transact_step_of_not_accepting p hacc]
      exact .kept _
  | .regRead _ => .kept _
  | .regReadAddr n => by
    obtain hn | hn := Nat.lt_or_ge n 8
    · rw [transact_regReadAddr_of_lt p s hn]
      exact .kept _
    · rw [transact_regReadAddr_of_ge p s hn]
      exact .rejected (by nofun) _ _
  | .regWrite .pc v => .pc v
  | .regWrite (.gpr k) v => .gpr k v
  | .regWrite .cond _ => .rejected (by nofun) .directCondWrite 0
  | .regWriteCC (.byName k) v => .gprFlagged k v
  | .regWriteCC (.byAddress n) v => by
    obtain hn | hn := Nat.lt_or_ge n 8
    · rw [transact_regWriteCC_address_of_lt p s v hn]
      exact .gprFlagged _ v
    · rw [transact_regWriteCC_address_of_ge p s v hn]
      exact .rejected (by nofun) _ _
  | .status => .kept _

theorem transactAll_induction {P : State → Prop} {p : Platform} (hkeep : ∀ t u, P u → P (transact p t u).2)
    (ts : List Transaction) (s : State) (hs : P s) : P (transactAll p ts s) := by
  induction ts generalizing s with
  | nil => exact hs
  | cons t ts ih => exact ih _ (hkeep t s hs)

end Sys2Proof.Machine
end

section
/-! Invariants (10_state.md sections 4 and 5): what every instruction, every step and every transaction keeps. -/

namespace Sys2Proof.Machine

/-! ### Canonical memory and legal flags (R29, R36) -/

theorem oneFlag_setcc (v : Word) : OneFlag (setcc v) := by
  obtain ⟨-, h⟩ | ⟨-, h⟩ | ⟨-, -, h⟩ := setcc_cases v
  · exact .inr (.inr h)
  · exact .inr (.inl h)
  · exact .inl h

/-- Settles O42: the reset memory lists no cell, and no flag is set. -/
theorem resetIsGood : Obligations.ResetIsGood := ⟨State.reset_mem_wf, .inl rfl⟩

theorem Effect.cond_cases {i : Instr} {s t : State} (h : Effect i s t) :
    t.cond = s.cond ∨ ∃ v, t.cond = setcc v := by
  cases h with
  | flaggedWrite v _ _ _ => exact .inr ⟨v, rfl⟩
  | linkedJump | store | pcOnly | fault => exact .inl rfl

theorem Effect.memory_wf {i : Instr} {s t : State} (h : Effect i s t) (hwf : s.mem.wf) : t.mem.wf := by
  cases h with
  | store v _ _ => exact s.memWrite_wf _ v hwf
  | flaggedWrite | linkedJump | pcOnly | fault => exact hwf

theorem Effect.oneFlag {i : Instr} {s t : State} (h : Effect i s t) (hc : OneFlag s.cond) : OneFlag t.cond := by
  obtain hsame | ⟨v, hv⟩ := h.cond_cases
  · rwa [hsame]
  · rw [hv]
    exact oneFlag_setcc v

theorem Effect.good {i : Instr} {s t : State} (h : Effect i s t) (hg : Good s) : Good t := by
  refine ⟨h.memory_wf hg.memory, ?_⟩
  obtain hsame | ⟨v, hv⟩ := h.cond_cases
  · rw [hsame]
    exact hg.cond
  · rw [hv]
    exact .inr (oneFlag_setcc v)

theorem Good.advancePc {s : State} (hg : Good s) : Good s.advancePc := ⟨hg.memory, hg.cond⟩

/-- The contract of a hook is what a step needs of its answer. -/
theorem TrapHook.Lawful.good {h : TrapHook} (hlawful : h.Lawful) {s t : State} {ir : Word} (hanswer : h s ir = .ok t)
    (hg : Good s) : Good t := by
  refine ⟨hlawful.keepsMemory s ir t hanswer hg.memory, ?_⟩
  obtain hone | ⟨-, hzero⟩ := hlawful.keepsCond s ir t hg.cond hanswer
  · exact .inr hone
  · exact .inl hzero

theorem StepEffect.good {p : Platform} {s t : State} (h : StepEffect p s t) (hp : p.Lawful) (hg : Good s) : Good t := by
  cases h with
  | legal _ heffect => exact heffect.good hg.advancePc
  | raised _ => exact ⟨hg.memory, hg.cond⟩
  | hooked hhook hanswer => exact (hp _ hhook).good hanswer hg.advancePc

theorem Platform.default_lawful : Platform.default.Lawful := fun _ h => nomatch h

/-- Settles O43: the machine is the default platform, whose every step effect keeps `Good`. -/
theorem stepKeepsGood : Obligations.StepKeepsGood := fun s _ hg ht =>
  (effect_of_stepOn ((stepOn_default s).trans ht)).2.good Platform.default_lawful hg

theorem TransactEffect.good {p : Platform} {t : Transaction} {s : State} {out : Response × State}
    (h : TransactEffect p t s out) (hp : p.Lawful) (hg : Good s) : Good out.2 := by
  cases h with
  | kept _ => exact hg
  | reset _ => exact resetIsGood
  | stepped _ _ heffect => exact heffect.good hp hg
  | memory a v => exact ⟨s.memWrite_wf a v hg.memory, hg.cond⟩
  | gprFlagged k v => exact ⟨hg.memory, .inr (oneFlag_setcc v)⟩
  | started | gpr | pc | rejected => exact ⟨hg.memory, hg.cond⟩

/-- Settles O45: each of the nine shapes of a transaction keeps `Good`. -/
theorem transactionsKeepGood : Obligations.TransactionsKeepGood := fun p t s hp hg => (transact_effect p s t).good hp hg

/-- Settles O46: by induction on the transactions, from reset. -/
theorem reachableStatesAreGood : Obligations.ReachableStatesAreGood := fun p ts hp =>
  transactAll_induction (fun t u hu => transactionsKeepGood p t u hp hu) ts State.reset resetIsGood

/-- Settles O44: a data-producing instruction sets `cond` by the flag function, and every effect of a step keeps one
flag; the machine has no hook and a raised fault keeps `cond`. -/
theorem oneFlagOnceSet : Obligations.OneFlagOnceSet := by
  refine ⟨rfl, fun i s t hdata hexec => ?_, fun s t hc ht => ?_⟩
  · obtain ⟨d, -, hcond⟩ := exec_dataProducing_cond hdata hexec
    rw [hcond]
    exact oneFlag_setcc _
  · obtain ⟨-, heffect⟩ := effect_of_stepOn ((stepOn_default s).trans ht)
    cases heffect with
    | legal _ heffect => exact heffect.oneFlag hc
    | raised _ => exact hc
    | hooked hhook _ => nomatch hhook

/-! ### The fault latch (R35, R36) -/

theorem TransactEffect.keeps_record {p : Platform} {t : Transaction} {s : State} {out : Response × State}
    {r : FaultRecord} (h : TransactEffect p t s out) (hf : s.fault = some r) (ht : t ≠ .reset) :
    out.2.fault = some r := by
  cases h with
  | reset ht' => exact absurd ht' ht
  | stepped _ hacc _ => exact nomatch hf.symm.trans hacc.2
  | rejected _ cause word => exact s.latch_keeps_first _ r hf
  | kept | started | memory | gpr | gprFlagged | pc => exact hf

/-- Settles O47: no step is accepted under a latched fault, and a rejected access keeps the first record. -/
theorem faultLatchSticky : Obligations.FaultLatchSticky := fun p t s _ hf ht => (transact_effect p s t).keeps_record hf ht

/-- Of an accepted step only a raised condition changes the latch, under a lawful hook. -/
theorem StepEffect.raised_of_fault_ne {p : Platform} {s t : State} (h : StepEffect p s t) (hp : p.Lawful)
    (hne : t.fault ≠ s.fault) :
    ∃ cause, StepRaises p s cause ∧ t = { s with fault := some ⟨cause, s.pc, s.fetch⟩ } := by
  cases h with
  | legal hlegal heffect => exact absurd (heffect.fault_eq_of_legal hlegal) hne
  | raised hraises => exact ⟨_, hraises, rfl⟩
  | hooked hhook hanswer => exact absurd ((hp _ hhook).keepsFault _ _ _ hanswer) hne

theorem rejectAccess_of_no_fault {s : State} (cause : FaultCause) (word : Word) (hf : s.fault = none) :
    s.rejectAccess cause word = { s with fault := some ⟨cause, 0, word⟩ } := by
  rw [State.rejectAccess, State.latch, hf]
  rfl

/-- Settles O57: of the nine shapes two can change the latch, a step that raises and a rejected access, and both only
from the empty latch. -/
theorem faultLatchWriters : Obligations.FaultLatchWriters := by
  intro p t s hp ht hne
  have heffect := transact_effect p s t
  have hnone : s.fault = none := Option.eq_none_iff_forall_ne_some.2 fun r hr =>
    hne ((heffect.keeps_record hr ht).trans hr.symm)
  refine ⟨hnone, ?_⟩
  generalize transact p t s = out at heffect hne
  cases heffect with
  | reset ht' => exact absurd ht' ht
  | stepped ht' hacc hstep =>
    obtain ⟨cause, hraises, rfl⟩ := hstep.raised_of_fault_ne hp hne
    exact ⟨_, rfl, .inl ⟨ht', rfl, hraises, rfl, rfl⟩⟩
  | rejected ht' cause word =>
    exact ⟨_, rejectAccess_of_no_fault cause word hnone, .inr ⟨ht', rfl, rfl⟩⟩
  | kept | started | memory | gpr | gprFlagged | pc => exact absurd rfl hne

/-- Settles O58: one code a cause, and 0 for the empty latch only. -/
theorem faultLatchCodes : Obligations.FaultLatchCodes :=
  ⟨rfl, faultCode_eq_zero, fun _ _ => ⟨rfl, rfl, rfl⟩⟩

/-! ### The running flag (R34) -/

theorem StepEffect.run_eq {p : Platform} {s t : State} (h : StepEffect p s t) (hnone : p.trapHook = none) :
    t.run = s.run := by
  cases h with
  | legal _ heffect => exact heffect.run_eq
  | raised _ => rfl
  | hooked hhook _ => exact nomatch hnone.symm.trans hhook

theorem TransactEffect.run_cases {p : Platform} {t : Transaction} {s : State} {out : Response × State}
    (h : TransactEffect p t s out) (hnone : p.trapHook = none) :
    (t = .reset ∧ out.2.run = false) ∨ (t = .start ∧ out.2.run = true) ∨ out.2.run = s.run := by
  cases h with
  | reset ht => exact .inl ⟨ht, rfl⟩
  | started ht _ => exact .inr (.inl ⟨ht, rfl⟩)
  | stepped _ _ heffect => exact .inr (.inr (heffect.run_eq hnone))
  | kept | memory | gpr | gprFlagged | pc | rejected => exact .inr (.inr rfl)

/-- Settles O48: RESET clears the flag, START sets it, and every other transaction keeps it. -/
theorem runFlagChangesByStartAndReset : Obligations.RunFlagChangesByStartAndReset := by
  intro p t s hnone
  obtain ⟨ht, hrun⟩ | ⟨ht, hrun⟩ | hrun := (transact_effect p s t).run_cases hnone
  · exact ⟨fun _ ht' => absurd ht ht', fun _ _ => hrun⟩
  · exact ⟨fun _ _ => hrun, fun _ ht' => absurd ht ht'⟩
  · exact ⟨fun h _ => hrun.trans h, fun h _ => hrun.trans h⟩

end Sys2Proof.Machine
end

section
/-! The host interface (70_reset_and_hazards.md): RESET, START, the register port, runs of STEPs and the launch. -/

namespace Sys2Proof.Machine

/-! ### RESET and START (R260 to R262) -/

theorem reset_readReg (k : RegNum) : State.reset.readReg k = 0 := Vector.getElem_replicate ..

/-- Settles O41: RESET does not look at the state, and every field of the reset state is as R40 writes it. -/
theorem resetClearsEverything : Obligations.ResetClearsEverything :=
  ⟨fun _ _ => rfl, reset_readReg, fun _ => rfl, rfl, rfl, rfl, rfl⟩

/-- Settles O49: the two outcomes of START. -/
theorem startTransaction : Obligations.StartTransaction := by
  refine fun p s => ⟨fun hrun hf => ⟨_, transact_start_of_halted p hrun hf, rfl, rfl, hf, rfl, fun _ => rfl, fun _ => rfl⟩,
    fun h => transact_start_refused p fun ⟨hrun, hf⟩ => ?_, rfl⟩
  obtain h | h := h
  · exact absurd (hrun.symm.trans h) (by decide)
  · exact h hf

/-! ### The register port (R267, R268) -/

/-- Settles O51: each access by the law of its transaction and the frame of the one write it does. -/
theorem registerPort : Obligations.RegisterPort := by
  intro p s k n v
  refine ⟨rfl, rfl, rfl, transact_regReadAddr_of_lt p s, fun hn hf => ?_, ⟨_, rfl, setPc_pcOnly s v⟩,
    ⟨_, rfl, s.readReg_writeReg_self k v, fun _ hj => s.readReg_writeReg_other v hj, rfl, rfl, fun _ => rfl, rfl, rfl⟩,
    fun hf => ?_, ⟨_, rfl, writeRegCC_flaggedWriteOnly s k v⟩,
    fun hn => ⟨_, transact_regWriteCC_address_of_lt p s v hn, writeRegCC_flaggedWriteOnly s _ v⟩, fun hn hf => ?_, rfl⟩
  · rw [transact_regReadAddr_of_ge p s hn, rejectAccess_of_no_fault _ _ hf]
  · exact congrArg (Prod.mk _) (rejectAccess_of_no_fault _ _ hf)
  · rw [transact_regWriteCC_address_of_ge p s v hn, rejectAccess_of_no_fault _ _ hf]

/-! ### Runs of STEPs (R270) -/

theorem runSteps_add (p : Platform) (n m : Nat) (s : State) : runSteps p (n + m) s = runSteps p m (runSteps p n s) := by
  rw [runSteps, List.replicate_add, transactAll_append]
  rfl

theorem runSteps_of_faulted (p : Platform) (m : Nat) {s : State} (hf : s.fault ≠ none) : runSteps p m s = s := by
  have hone : runSteps p 1 s = s :=
    congrArg Prod.snd (transact_step_of_not_accepting p fun hacc => hf hacc.2)
  induction m with
  | zero => rfl
  | succ m ih => rw [Nat.add_comm, runSteps_add, hone, ih]

/-- Settles O56: the further steps run from a faulted state, which every refused step keeps. -/
theorem runEndsAtFault : Obligations.RunEndsAtFault := fun p n m s hf =>
  (runSteps_add p n m s).trans (runSteps_of_faulted p m hf)

/-! ### The launch (R264, R265) -/

/-- The state after the loader's writes of an image, before START. -/
def loaded (p : Platform) (image : List (Nat × Word)) : State :=
  transactAll p (image.map fun c => .loaderWrite c.1 c.2) State.reset

theorem loaded_append_singleton (p : Platform) (image : List (Nat × Word)) (c : Nat × Word) :
    loaded p (image ++ [c]) = (loaded p image).memWrite (BitVec.ofNat 16 c.1) c.2 := by
  rw [loaded, List.map_append, transactAll_append]
  rfl

/-- The loader changes memory only. -/
theorem loaded_eq_reset_with_memory (p : Platform) (image : List (Nat × Word)) :
    ∃ m, loaded p image = { State.reset with mem := m } := by
  induction image using List.reverseRecOn with
  | nil => exact ⟨[], rfl⟩
  | append_singleton image c ih =>
    obtain ⟨m, hm⟩ := ih
    rw [loaded_append_singleton, hm]
    exact ⟨_, rfl⟩

/-- The last word that an image has for the cell `a`, or 0. -/
theorem loaded_memRead (p : Platform) (image : List (Nat × Word)) (a : Word) : (loaded p image).memRead a =
    ((image.reverse.find? fun c => c.1 % 65536 = a.toNat).map Prod.snd).getD 0 := by
  induction image using List.reverseRecOn with
  | nil => rfl
  | append_singleton image c ih =>
    have hcell : a = BitVec.ofNat 16 c.1 ↔ c.1 % 65536 = a.toNat := by
      rw [← BitVec.toNat_inj, BitVec.toNat_ofNat, eq_comm]
    rw [loaded_append_singleton, State.memRead_memWrite, List.reverse_append, List.reverse_singleton,
      List.singleton_append, List.find?_cons]
    by_cases h : c.1 % 65536 = a.toNat
    · rw [if_pos (hcell.2 h), decide_eq_true h]
      rfl
    · rw [if_neg (mt hcell.1 h), decide_eq_false h, ih]

theorem launch_eq_start_loaded (p : Platform) (image : List (Nat × Word)) :
    launch p image = (loaded p image).start p.entryAddress := by
  obtain ⟨m, hm⟩ := loaded_eq_reset_with_memory p image
  have hstart : transact p .start (loaded p image) = (.done, (loaded p image).start p.entryAddress) :=
    transact_start_of_halted p (by rw [hm]; rfl) (by rw [hm]; rfl)
  calc launch p image = (transact p .start (loaded p image)).2 := transactAll_append p _ [.start] State.reset
    _ = (loaded p image).start p.entryAddress := by rw [hstart]

/-- Settles O52: the launched state is START's of the loaded one, which is the reset state with the image in memory. -/
theorem freshLaunch : Obligations.FreshLaunch := by
  intro p image
  obtain ⟨m, hm⟩ := loaded_eq_reset_with_memory p image
  rw [launch_eq_start_loaded]
  refine ⟨rfl, ⟨rfl, ?_⟩, ?_, fun k => ?_, fun a => loaded_memRead p image a⟩
  · rw [hm]; rfl
  · rw [hm]; rfl
  · rw [hm]; exact reset_readReg k

end Sys2Proof.Machine
end
